-- ==== Sys2Proof/Word.lean ====
section
/-! DEFINITION. The word type of the device (R60: a 16-bit unsigned value) and the widths the spec fixes (R6). -/

namespace Sys2Proof

/-- A word, the unit of storage moved to or from one address (R60): `WORD_W` = 16 bits. -/
abbrev Word := BitVec 16

/-- An address on the wire (R60): `ADDR_W` = 6 bits, 0 to 63. -/
abbrev Addr := BitVec 6

/-- One byte of a request packet (the packet form is the model's own, log 6). -/
abbrev Byte := BitVec 8

/-- The value of the frame shift register `TXSR` (R25): 25 bits. -/
abbrev FrameValue := BitVec 25

end Sys2Proof
end

