-- ==== Sys2Proof/Config.lean ====
section
/-! DEFINITION. The parameters of an instance (R6) and the values the spec leaves free (R38, R151), which no proof can look into. -/

namespace Sys2Proof

/-- The parameters of R6 that the spec leaves OPEN. They are constants of an instance, not registers
(R33, R39): State carries them and no step changes them (log 12). -/
structure Params where
  /-- `POLL_CEILING`, the largest number of polls of `wait_ready`; 16 bits, so at most 65535 (R6, D9). -/
  pollCeiling   : BitVec 16
  /-- `ADDR_IN_W`, the width of the host's address operand; at least 6 (R6, D3). -/
  addrInW       : Nat
  /-- `DELAY_CYCLES`, the clock cycles of one `DLY` in the clocked realisation (R28, R190). -/
  delayCycles   : Nat
  /-- `CS_ACTIVE_LEVEL`, the electrical level of an active `CS`; `true` is high (R6, R8). -/
  csActiveLevel : Bool
deriving DecidableEq, Repr

/-- What R6 asks of the parameters: `ADDR_IN_W` is at least 6 (`POLL_CEILING` ≤ 65535 is in its type). -/
abbrev Params.legal (p : Params) : Prop := 6 ≤ p.addrInW

namespace Config

/-- Free value: the level of `CS` right after reset (R38: unspecified, drawn freely). -/
opaque resetCs : Bool

/-- Free value: the level of `SK` right after reset (R38). -/
opaque resetSk : Bool

/-- Free value: the level of `DI` right after reset (R38). -/
opaque resetDi : Bool

/-- Free value: the level of `DO` at the n-th sample, wherever State holds no answer of the device for
it (R151: the oracle is unconstrained; log 3). -/
opaque freeDo : Nat → Bool

/-- Free value: `DELAY_CYCLES`, for which R6 gives no default. -/
opaque freeDelayCycles : Nat

/-- The parameters with the defaults of R6: `POLL_CEILING` 40000, `ADDR_IN_W` 8, `CS` active high. -/
def defaultParams : Params :=
  { pollCeiling := 40000, addrInW := 8, delayCycles := freeDelayCycles, csActiveLevel := true }

end Config

end Sys2Proof
end

