-- ==== Sys2Proof/Syntax.lean ====
section
/-! DEFINITION. The operation set (R87): one constructor of `Instr` per row of spec/opcode_table.json, the operation codes (R88), the request port's contents (R33) and the frames (R80 to R84). -/

namespace Sys2Proof

/-- The block's operations, primitives and declared names (R87, R140). -/
inductive Instr where
  /-- `INIT`, `initialize()` (R110). -/
  | init
  /-- `EWEN`, `write_enable()` (R111). -/
  | ewen
  /-- `EWDS`, `write_disable()` (R112). -/
  | ewds
  /-- `READ`, `read(address)` (R120); the address operand is as wide as the host's port (R6). -/
  | read (address : Nat)
  /-- `WRITE`, `write(address, word)` (R121). -/
  | write (address : Nat) (word : Word)
  /-- `WAITRDY`, `wait_ready()` (R130). -/
  | waitrdy
  /-- Reserved request code 6 (R89). -/
  | reserved6
  /-- Reserved request code 7 (R89). -/
  | reserved7
  /-- `TXBITS`, `transmit-bits(value, count)` (R100). -/
  | txbits (value : Word) (count : Nat)
  /-- `TXADDR`, `transmit-address(address)` (R101). -/
  | txaddr (address : Nat)
  /-- `TXWORD`, `transmit-word(word)` (R102). -/
  | txword (word : Word)
  /-- `RXWORD`, `receive-word()` (R103). -/
  | rxword
  /-- `ERASE`, declared and not implemented (R140), as are the seven below. -/
  | erase
  | eral
  | wral
  | mlread
  | mlwrite
  | eepTest
  | checkrdy
  | eepEnd
deriving DecidableEq, Repr

/-- The operation codes of R88, the contents of the latch `OPR` (R23): eight names for three bits. -/
inductive OpCode where
  | init | ewen | ewds | read | write | waitrdy | reserved6 | reserved7
deriving DecidableEq, Repr

/-- One request on the request port (R33): `req_op`, `req_addr`, `req_wdata`. -/
structure Request where
  op    : BitVec 3
  addr  : Nat
  wdata : Word
deriving DecidableEq, Repr

/-- A frame the block sends (R81 to R84): format C with `FN = 11` or `FN = 00`, format R, format W. -/
inductive Frame where
  | ewen
  | ewds
  | read  (a : Addr)
  | write (a : Addr) (d : Word)
deriving DecidableEq, Repr

end Sys2Proof
end

