-- ==== Sys2Proof/WellFormed.lean ====
section
/-! DEFINITION. Which operand values the spec gives an instruction (R6, R100), and which requests fit on the port (R33). -/

namespace Sys2Proof

/-- The operands are in their range: an address operand fits in `ADDR_IN_W` bits (R6), and `count` is
0 to 16 (R100, `TX_MAX`). `transmit-address` takes any address (R101: its truncation makes it total). -/
def Instr.wellFormed (p : Params) : Instr → Bool
  | .read address    => decide (address < 2 ^ p.addrInW)
  | .write address _ => decide (address < 2 ^ p.addrInW)
  | .txbits _ count  => decide (count ≤ 16)
  | .init | .ewen | .ewds | .waitrdy | .reserved6 | .reserved7 | .txaddr _ | .txword _ | .rxword
  | .erase | .eral | .wral | .mlread | .mlwrite | .eepTest | .checkrdy | .eepEnd => true

/-- The host can request it: it has a request code (R87, R88). -/
def Instr.requestable : Instr → Bool
  | .init | .ewen | .ewds | .read _ | .write _ _ | .waitrdy | .reserved6 | .reserved7 => true
  | .txbits _ _ | .txaddr _ | .txword _ | .rxword
  | .erase | .eral | .wral | .mlread | .mlwrite | .eepTest | .checkrdy | .eepEnd => false

/-- `req_addr` is `ADDR_IN_W` wires (R33). -/
def Request.fits (p : Params) (r : Request) : Bool := decide (r.addr < 2 ^ p.addrInW)

end Sys2Proof
end

