-- ==== Sys2Proof/Decode.lean ====
section
/-! DEFINITION. Request codes (R88) and request packets to instructions and back; frames to bits (R80 to R84) and back. Total, rejecting by name. -/

namespace Sys2Proof

/-! ## Request codes (R88) -/

/-- The request code of R88. -/
def OpCode.code : OpCode → BitVec 3
  | .init => 0b000#3
  | .ewen => 0b001#3
  | .ewds => 0b010#3
  | .read => 0b011#3
  | .write => 0b100#3
  | .waitrdy => 0b101#3
  | .reserved6 => 0b110#3
  | .reserved7 => 0b111#3

/-- The operation a request code names; `110` and `111` name none and are the reserved codes (R88, R89). -/
def OpCode.ofCode (b : BitVec 3) : OpCode :=
  if b = 0b000#3 then .init
  else if b = 0b001#3 then .ewen
  else if b = 0b010#3 then .ewds
  else if b = 0b011#3 then .read
  else if b = 0b100#3 then .write
  else if b = 0b101#3 then .waitrdy
  else if b = 0b110#3 then .reserved6
  else .reserved7

/-- The instruction a request stands for: `req_addr` is used by `READ` and `WRITE`, `req_wdata` by
`WRITE`, and other codes ignore them (R88). -/
def decodeRequest (r : Request) : Instr :=
  match OpCode.ofCode r.op with
  | .init => .init
  | .ewen => .ewen
  | .ewds => .ewds
  | .read => .read r.addr
  | .write => .write r.addr r.wdata
  | .waitrdy => .waitrdy
  | .reserved6 => .reserved6
  | .reserved7 => .reserved7

/-! ## Request packets

The port is a bundle of wires and has no bytes. A packet lays one request out as bytes so that it can
be written as a number (log 6): one byte whose bits 2:0 are `req_op` (the opcode table's match and
mask), two bytes of `req_wdata`, and the bytes of `req_addr`; the least significant byte first. -/

/-- Why a packet is no request. -/
inductive DecodeRefusal where
  /-- Fewer than three bytes. -/
  | truncatedPacket
  /-- The first byte is above 7: `req_op` has three bits (R33). -/
  | noSuchRequestCode
  /-- The address does not fit on the `ADDR_IN_W` wires of `req_addr` (R33). -/
  | addressTooWide
deriving DecidableEq, Repr

/-- The number whose bytes, least significant first, these are. -/
def natOfBytes : List Byte → Nat
  | [] => 0
  | b :: bs => b.toNat + 256 * natOfBytes bs

/-- The low `n` bytes of a number, least significant first. -/
def bytesOfNat : Nat → Nat → List Byte
  | 0, _ => []
  | n + 1, a => BitVec.ofNat 8 a :: bytesOfNat n (a / 256)

/-- The request in a packet. -/
def parsePacket (p : Params) (bytes : List Byte) : Except DecodeRefusal Request :=
  match bytes with
  | op :: lo :: hi :: addr =>
    if 8 ≤ op.toNat then .error .noSuchRequestCode
    else if 2 ^ p.addrInW ≤ natOfBytes addr then .error .addressTooWide
    else .ok { op := BitVec.ofNat 3 op.toNat, addr := natOfBytes addr, wdata := hi ++ lo }
  | _ => .error .truncatedPacket

/-- The decoder, total on any bytes. -/
def decodePacket (p : Params) (bytes : List Byte) : Except DecodeRefusal Instr :=
  match parsePacket p bytes with
  | .ok r => .ok (decodeRequest r)
  | .error e => .error e

/-- How many bytes `req_addr` takes in a packet. -/
def addrBytes (p : Params) : Nat := (p.addrInW + 7) / 8

/-- The request that stands for an instruction; none for the internal primitives and the declared
names, which have no request code (R87, R140). Operands an operation does not have are sent as 0. -/
def encodeRequest : Instr → Option Request
  | .init => some { op := OpCode.init.code, addr := 0, wdata := 0 }
  | .ewen => some { op := OpCode.ewen.code, addr := 0, wdata := 0 }
  | .ewds => some { op := OpCode.ewds.code, addr := 0, wdata := 0 }
  | .read address => some { op := OpCode.read.code, addr := address, wdata := 0 }
  | .write address word => some { op := OpCode.write.code, addr := address, wdata := word }
  | .waitrdy => some { op := OpCode.waitrdy.code, addr := 0, wdata := 0 }
  | .reserved6 => some { op := OpCode.reserved6.code, addr := 0, wdata := 0 }
  | .reserved7 => some { op := OpCode.reserved7.code, addr := 0, wdata := 0 }
  | .txbits _ _ | .txaddr _ | .txword _ | .rxword
  | .erase | .eral | .wral | .mlread | .mlwrite | .eepTest | .checkrdy | .eepEnd => none

/-- The packet of a request. -/
def packRequest (p : Params) (r : Request) : List Byte :=
  BitVec.ofNat 8 r.op.toNat :: r.wdata.extractLsb' 0 8 :: r.wdata.extractLsb' 8 8 ::
    bytesOfNat (addrBytes p) r.addr

/-- The packet of an instruction, where it has one. -/
def encodePacket (p : Params) (i : Instr) : Option (List Byte) :=
  (encodeRequest i).map (packRequest p)

/-- The longest packet under the default parameters: op, two bytes of word, one byte of address. -/
def tableBytes : Nat := 3 + addrBytes Config.defaultParams

/-- The request in a word of the opcode table: bit 0 is the least significant bit of the first byte,
and every bit above `nbits` is 0. -/
def parseTableWord (nbits w : Nat) : Except DecodeRefusal Request :=
  parsePacket Config.defaultParams (bytesOfNat tableBytes (w % 2 ^ nbits))

/-- The instruction the decoder reads from an opcode-table word. -/
def decodeTableWord (nbits w : Nat) : Option Instr :=
  match parseTableWord nbits w with
  | .ok r => some (decodeRequest r)
  | .error _ => none

/-! ## Frames (R80 to R84) -/

/-- The frame as one value (R82 to R84, R32): its most significant bit is sent first. -/
def Frame.value : Frame → FrameValue
  | .ewen => 0x130#25
  | .ewds => 0x100#25
  | .read a => 0x180#25 ||| a.setWidth 25
  | .write a d => ((0x140#25 ||| a.setWidth 25) <<< 16) ||| d.setWidth 25

/-- How many bits are sent (R82 to R84, R90). -/
def Frame.length : Frame → Nat
  | .ewen | .ewds | .read _ => 9
  | .write _ _ => 25

/-- The groups of a frame, each a value and a bit count, in the order sent (R81, and the step lists of
R111, R112, R120, R121): start bit, opcode, then function code and don't-care bits (sent as 0000), or
address, or address and word. -/
def Frame.groups : Frame → List (Word × Nat)
  | .ewen => [(0b1, 1), (0b00, 2), (0b11, 2), (0b0000, 4)]
  | .ewds => [(0b1, 1), (0b00, 2), (0b00, 2), (0b0000, 4)]
  | .read a => [(0b1, 1), (0b10, 2), (a.setWidth 16, 6)]
  | .write a d => [(0b1, 1), (0b01, 2), (a.setWidth 16, 6), (d, 16)]

/-- The low `n` bits of a value, most significant first (R61). -/
def msbFirst {w : Nat} (v : BitVec w) : Nat → List Bool
  | 0 => []
  | n + 1 => v.getLsbD n :: msbFirst v n

/-- The bits of a frame in the order sent (R80). -/
def Frame.bits (f : Frame) : List Bool := msbFirst f.value f.length

/-- The number these bits spell, most significant first (R61). -/
def natOfBits (bits : List Bool) : Nat := bits.foldl (fun n b => 2 * n + b.toNat) 0

/-- Why a bit sequence is no frame of the block (R89). -/
inductive FrameRefusal where
  /-- No start bit of 1 (R89 e). -/
  | noStartBit
  /-- Opcode `11`, never sent (R89 b). -/
  | neverSentOpcode
  /-- Function code `01` or `10`, never sent (R89 b). -/
  | neverSentFunction
  /-- Not 9 bits, or not 25 for a write (R89 e, R90). -/
  | wrongLength
deriving DecidableEq, Repr

/-- Reads a frame from its bits; the four don't-care bits may hold anything (R81). -/
def parseFrame (bits : List Bool) : Except FrameRefusal Frame :=
  match bits with
  | true :: true :: true :: _ => .error .neverSentOpcode
  | true :: true :: false :: rest =>
    if rest.length = 6 then .ok (.read (BitVec.ofNat 6 (natOfBits rest))) else .error .wrongLength
  | true :: false :: true :: rest =>
    if rest.length = 22 then
      .ok (.write (BitVec.ofNat 6 (natOfBits (rest.take 6))) (BitVec.ofNat 16 (natOfBits (rest.drop 6))))
    else .error .wrongLength
  | true :: false :: false :: true :: true :: rest =>
    if rest.length = 4 then .ok .ewen else .error .wrongLength
  | true :: false :: false :: false :: false :: rest =>
    if rest.length = 4 then .ok .ewds else .error .wrongLength
  | true :: false :: false :: _ :: _ :: _ => .error .neverSentFunction
  | true :: _ => .error .wrongLength
  | _ => .error .noStartBit

end Sys2Proof
end

