-- ==== Sys2Proof/Machine/Trace.lean ====
section
/-! DEFINITION. Events (R9), line states, the pin trace (R10), and the event traces the rules give each operation (R100, R103, R111, R112, R120, R121, R130). -/

namespace Sys2Proof.Machine

/-- The five kinds of event of R9. -/
inductive Event where
  /-- `CS(l)`: the `CS` pin register is written with `l`. -/
  | cs (l : Bool)
  /-- `SK(l)`. -/
  | sk (l : Bool)
  /-- `DI(l)`. -/
  | di (l : Bool)
  /-- `DLY`: one settle delay elapses. -/
  | dly
  /-- `SMP(b)`: the `DO` pin is sampled once and the sample is `b`. -/
  | smp (b : Bool)
deriving DecidableEq, Repr

/-- A line state `(cs, sk, di)` (R10, R21); 1 is active for `CS` and `SK`, high for `DI` (R8). -/
structure Lines where
  cs : Bool
  sk : Bool
  di : Bool
deriving DecidableEq, Repr

/-- The idle line state (R35; glossary of 00_scope.md). -/
def Lines.idle : Lines := { cs := false, sk := false, di := false }

/-- The line state after an event. -/
def Lines.after (l : Lines) : Event → Lines
  | .cs b => { l with cs := b }
  | .sk b => { l with sk := b }
  | .di b => { l with di := b }
  | .dly => l
  | .smp _ => l

/-- A redundant drive: it writes a pin register with the level it already holds (R10). -/
def Event.redundant (l : Lines) : Event → Bool
  | .cs b => l.cs == b
  | .sk b => l.sk == b
  | .di b => l.di == b
  | .dly => false
  | .smp _ => false

/-- The line state after a trace. -/
def Lines.afterAll (l : Lines) (t : List Event) : Lines := t.foldl Lines.after l

/-- The pin trace `pin(L0, t)` of R10: redundant drives are dropped, delays and samples kept. -/
def pinTrace (l : Lines) : List Event → List Event
  | [] => []
  | e :: t => if e.redundant l then pinTrace l t else e :: pinTrace (l.after e) t

/-- The samples in a trace, in order. -/
def samplesOf : List Event → List Bool
  | [] => []
  | .smp b :: t => b :: samplesOf t
  | .cs _ :: t | .sk _ :: t | .di _ :: t | .dly :: t => samplesOf t

/-- How many settle delays a trace holds. -/
def delaysOf (t : List Event) : Nat := t.countP (· == .dly)

/-- The clock pulses of a pin trace (R9): each rise of `SK` that a later fall completes. `risen` says that a
rise before this trace still waits for its fall. -/
def clockPulses : Bool → List Event → Nat
  | _, [] => 0
  | _, .sk true :: t => clockPulses true t
  | risen, .sk false :: t => risen.toNat + clockPulses false t
  | risen, .cs _ :: t | risen, .di _ :: t | risen, .dly :: t | risen, .smp _ :: t => clockPulses risen t

/-- How many clock pulses a trace holds (R9), at the pins (R10): a rise of the clock followed later by its
fall. A clock already active at the start, or still active at the end, makes no pulse. -/
def pulsesOf (l : Lines) (t : List Event) : Nat := clockPulses false (pinTrace l t)

/-- The bits the device takes from a trace: the level of `DI` at each rising clock edge while `CS` is
active (95_test_vectors.md, "Frames"; R152 b). -/
def bitsTaken (l : Lines) : List Event → List Bool
  | [] => []
  | e :: t =>
    if e = .sk true ∧ l.sk = false ∧ l.cs = true then l.di :: bitsTaken (l.after e) t
    else bitsTaken (l.after e) t

/-- A trace in the letters of R9; a character that is no letter of R9 is skipped. -/
def ofLetters : List Char → List Event
  | [] => []
  | '?' :: c :: t => .smp (c == '1') :: ofLetters t
  | c :: t =>
    if c = 'C' then .cs true :: ofLetters t
    else if c = 'c' then .cs false :: ofLetters t
    else if c = 'K' then .sk true :: ofLetters t
    else if c = 'k' then .sk false :: ofLetters t
    else if c = 'D' then .di true :: ofLetters t
    else if c = 'd' then .di false :: ofLetters t
    else if c = '.' then .dly :: ofLetters t
    else ofLetters t

/-! ## The canonical event traces -/

/-- One sent bit: `k.D.K.` or `k.d.K.` (R100). -/
def bitEvents (b : Bool) : List Event := [.sk false, .dly, .di b, .dly, .sk true, .dly]

/-- `transmit-bits(value, count)`: the pieces of its bits and the closing `SK(0)` (R100). -/
def txEvents (value : Word) (count : Nat) : List Event :=
  (msbFirst value count).flatMap bitEvents ++ [.sk false]

/-- A frame sent group by group, each group with its own closing `SK(0)` (R111, R112, R120, R121). -/
def groupEvents (f : Frame) : List Event := f.groups.flatMap fun g => txEvents g.1 g.2

/-- A frame sent in one pass, as the sequencer does (R32). -/
def onePassEvents (f : Frame) : List Event := f.bits.flatMap bitEvents ++ [.sk false]

/-- One received bit: `K.k.?b` (R103). -/
def rxBitEvents (b : Bool) : List Event := [.sk true, .dly, .sk false, .dly, .smp b]

/-- `receive-word` with the samples it takes (R103). -/
def rxEvents (samples : List Bool) : List Event := .di false :: samples.flatMap rxBitEvents

/-- One not-ready iteration of a poll: `K?0k` (R130). -/
def notReadyEvents : List Event := [.sk true, .smp false, .sk false]

/-- A poll that sees ready after `k` not-ready samples (R130). -/
def readyEvents (k : Nat) : List Event :=
  [.di false, .sk false, .cs true] ++ (List.replicate k notReadyEvents).flatten ++
    [.sk true, .smp true, .sk false, .cs false]

/-- A poll that reaches the ceiling `n` (R130). -/
def timeoutEvents (n : Nat) : List Event :=
  [.di false, .sk false, .cs true] ++ (List.replicate n notReadyEvents).flatten ++ [.cs false]

/-- A whole control or write transaction: `CS(1)`, the frame, `CS(0)`, `DI(0)` (R111, R112, R121). -/
def transactionEvents (f : Frame) : List Event :=
  .cs true :: groupEvents f ++ [.cs false, .di false]

/-- A whole read transaction with the samples it takes (R120). -/
def readEvents (a : Addr) (samples : List Bool) : List Event :=
  .cs true :: groupEvents (.read a) ++ rxEvents samples ++ [.cs false, .di false]

end Sys2Proof.Machine
end

