-- ==== Sys2Proof/Machine/State.lean ====
section
/-! DEFINITION. The machine's state (10_state.md), the reasons a step can stop, and the state after reset (R38). -/

namespace Sys2Proof.Machine

/-- The sequencer register `STEP` (R30): the 29 values of the table of R31. -/
inductive SeqStep where
  | idle
  | i0 | i1 | i2
  | f0
  | t0 | t1 | t2 | t3 | t4 | t5 | t6
  | x0 | x1 | x2 | x3 | x4 | x5
  | e0 | e1
  | w0 | w1 | w2 | w3 | w4 | w5 | w6 | w7 | w8
deriving DecidableEq, Repr

/-- `STAGE` (R27, 2 bits): which of its four sub-sequences a `write` is in, 0 to 3. -/
inductive Stage where
  | enableFrame
  | writeFrame
  | poll
  | disableFrame
deriving DecidableEq, Repr

/-- The machine's state. Reset values are in `State.reset`. -/
@[ext]
structure State where
  /-- `STEP` (R30). -/
  step      : SeqStep
  /-- `BUSY` (R29). -/
  busy      : Bool
  /-- `STAGE` (R27). -/
  stage     : Stage
  /-- Pin register `CS` (R21); `true` is active (R8). -/
  cs        : Bool
  /-- Pin register `SK` (R21); `true` is active. -/
  sk        : Bool
  /-- Pin register `DI` (R21); `true` is high. -/
  di        : Bool
  /-- Operand latch `OPR` (R23). -/
  opr       : OpCode
  /-- Operand latch `ADDR` (R23). -/
  addr      : Addr
  /-- Operand latch `WDATA` (R23). -/
  wdata     : Word
  /-- Result register `RDATA` (R24). -/
  rdata     : Word
  /-- Result flag `OK` (R24, R29). -/
  ok        : Bool
  /-- Poll result `RDY` (R26, R29). -/
  rdy       : Bool
  /-- Frame shift register `TXSR` (R25). -/
  txsr      : FrameValue
  /-- `TXCNT`, frame bits not yet sent (R25). -/
  txcnt     : BitVec 5
  /-- Accumulator `RXACC` (R25). -/
  rxacc     : Word
  /-- `RXCNT`, bits of the word still to receive (R25). -/
  rxcnt     : BitVec 5
  /-- `POLLCNT`, completed not-ready iterations (R26). -/
  pollcnt   : BitVec 16
  /-- `DLYCNT` of the clocked realisation, as wide as `DELAY_CYCLES` needs (R28). -/
  dlycnt    : Nat
  /-- `rsp_valid` (R33). -/
  rspValid  : Bool
  /-- The parameters of the instance (R6); no step changes them (R33, R39; log 12). -/
  params    : Params
  /-- The model's own field: the host's requests still to be offered, in order (R40; log 5). -/
  hostQueue : List Request
  /-- The model's own field: the device's answers to the coming samples, in order (R151; log 3). -/
  doAnswers : List Bool
  /-- The model's own field: the samples taken so far; it indexes the free value `Config.freeDo` (log 3). -/
  smpCount  : Nat
  /-- The model's own field: the event trace so far, oldest first (R9; log 7). -/
  trace     : List Event
deriving DecidableEq, Repr

/-- Reasons the machine stops with a fault. The block itself has no fault state (R40, R170). -/
inductive Fault where
  /-- Raised by the sequencer in a state for which the table of R31 has no row (an `OPR` and `STAGE`
  that cannot stand at this `STEP`, or a counter out of its range). No run reaches one (R40). Safe: the
  model stops (log 15). -/
  | offTable
deriving DecidableEq, Repr

/-- Reasons an instruction is refused. -/
inductive Refusal where
  /-- Raised by an arm of `exec` for an instruction that has no meaning yet. Safe. -/
  | notModelled (mnemonic : String)
  /-- Raised by the eight declared-only operations (R140): a model refuses them by name. Safe (log 19). -/
  | declaredNotImplemented (headerName : String)
  /-- Raised by `TXBITS` with `count` above 16, outside its domain (R100, U15). Safe (log 13). -/
  | countOutOfRange
deriving DecidableEq, Repr

/-- The machine right after reset (R38). Pin registers are at free levels (log 1); registers that R38
gives no value hold 0, the model's choice (log 2); the parameters are at the defaults of R6. -/
def State.reset : State :=
  { step := .idle, busy := false, stage := .enableFrame
    cs := Config.resetCs, sk := Config.resetSk, di := Config.resetDi
    opr := .init, addr := 0, wdata := 0, rdata := 0, ok := false, rdy := false
    txsr := 0, txcnt := 0, rxacc := 0, rxcnt := 0, pollcnt := 0, dlycnt := 0, rspValid := false
    params := Config.defaultParams
    hostQueue := [], doAnswers := [], smpCount := 0, trace := [] }

/-- The line state of the pin registers (R10, R21). -/
def State.lines (s : State) : Lines := { cs := s.cs, sk := s.sk, di := s.di }

end Sys2Proof.Machine
end

