-- ==== Sys2Proof/Machine/Ops.lean ====
section
/-! DEFINITION. The pseudocode primitives of R11 over the pin registers, the delay and the sample; the request and response port (R33); fetching the next request (R31, R40). There is no memory to read or write (R60) and no exception to take or return from (R170, R174). -/

namespace Sys2Proof.Machine

/-- `drive_cs(l)` (R11, R21). -/
def State.driveCs (s : State) (l : Bool) : State := { s with cs := l, trace := s.trace ++ [.cs l] }

/-- `drive_sk(l)` (R11, R21). -/
def State.driveSk (s : State) (l : Bool) : State := { s with sk := l, trace := s.trace ++ [.sk l] }

/-- `drive_di(l)` (R11, R21). -/
def State.driveDi (s : State) (l : Bool) : State := { s with di := l, trace := s.trace ++ [.di l] }

/-- `delay()` (R11): one `DLY` event, no duration (D10). -/
def State.delay (s : State) : State := { s with trace := s.trace ++ [.dly] }

/-- The level the environment answers to the `k`-th sample from here on (R151): the device's answer if
State holds one, else a free value (log 3). -/
def State.answer (s : State) (k : Nat) : Bool :=
  match s.doAnswers[k]? with
  | some b => b
  | none => Config.freeDo (s.smpCount + k)

/-- The answers to the next `n` samples, in order. -/
def State.answers (s : State) (n : Nat) : List Bool := (List.range n).map s.answer

/-- The present level of `DO` (R22): what a sample taken now answers. -/
def State.doLevel (s : State) : Bool := s.answer 0

/-- `sample()` (R11): the event `SMP(b)` with the present level of `DO`, which the environment has then
answered. -/
def State.sampled (s : State) : State :=
  { s with
    doAnswers := s.doAnswers.drop 1
    smpCount := s.smpCount + 1
    trace := s.trace ++ [.smp s.doLevel] }

/-- `STEP <- x` (R11, R30). -/
def State.goto (s : State) (x : SeqStep) : State := { s with step := x }

/-- `STAGE <- x` (R27). -/
def State.setStage (s : State) (x : Stage) : State := { s with stage := x }

/-- A step in which no operation completes: `rsp_valid` is 0 (R33). -/
def State.quiet (s : State) : State := { s with rspValid := false }

/-- `req_ready` (R33). -/
def State.reqReady (s : State) : Bool := !s.busy

/-- The request taken from the port, where one is offered and the block is ready in `IDLE` (R31, R33);
the host will then offer its next one (R40). -/
def State.fetch (s : State) : Option (Request × State) :=
  if s.step = .idle ∧ s.reqReady = true then
    match s.hostQueue with
    | [] => none
    | r :: rest => some (r, { s with hostQueue := rest })
  else none

/-- Puts a request on the port, before those the host still has, with the block ready for it. -/
def State.offer (s : State) (r : Request) : State :=
  { s with step := .idle, busy := false, hostQueue := r :: s.hostQueue }

/-- What the host takes from the response port: a success flag, and a word for a `read` only (R24). -/
structure Response where
  ok   : Bool
  data : Option Word
deriving DecidableEq, Repr

/-- The response posted in this state (R24, R33): none unless an operation completed in the last step. -/
def State.response (s : State) : Option Response :=
  if s.rspValid then
    some { ok := s.ok, data := if s.opr = .read then some s.rdata else none }
  else none

/-- The electrical level of the chip-select pin (R6, R8): `CS_ACTIVE_LEVEL` when `CS` is active. -/
def State.csPinLevel (s : State) : Bool :=
  if s.cs then s.params.csActiveLevel else !s.params.csActiveLevel

end Sys2Proof.Machine
end

