-- ==== Sys2Proof/Machine/Operands.lean ====
section
/-! DEFINITION. Operands: the address truncation (R62), the operand latches (R23), the frame of the running operation (R32), the transport registers (R25) and the receive shift (R12). -/

namespace Sys2Proof.Machine

/-- `trunc_6(address)` (R12 b, R62): `address mod 64`; a larger address is no error. -/
def trunc6 (address : Nat) : Addr := BitVec.ofNat 6 address

/-- `ADDR <- trunc_6(req_addr)` (R23). -/
def State.latchAddr (s : State) (address : Nat) : State := { s with addr := trunc6 address }

/-- `WDATA <- req_wdata` (R23). -/
def State.latchWord (s : State) (word : Word) : State := { s with wdata := word }

/-- `frame()` of R32, from `OPR`, `STAGE`, `ADDR`, `WDATA`; none where R32 has no row. -/
def State.frame (s : State) : Option Frame :=
  match s.opr, s.stage with
  | .ewen, _ => some .ewen
  | .ewds, _ => some .ewds
  | .read, _ => some (.read s.addr)
  | .write, .enableFrame => some .ewen
  | .write, .writeFrame => some (.write s.addr s.wdata)
  | .write, .disableFrame => some .ewds
  | .write, .poll => none
  | .init, _ | .waitrdy, _ | .reserved6, _ | .reserved7, _ => none

/-- `(TXSR, TXCNT) <- frame()` (R25, R31 row `F0`). -/
def State.loadFrame (s : State) (f : Frame) : State :=
  { s with txsr := f.value, txcnt := BitVec.ofNat 5 f.length }

/-- Every bit of the loaded frame has been sent: `TXCNT` = 0 (R25; log 9). -/
def State.frameSent (s : State) : State := { s with txcnt := 0 }

/-- `TXSR[TXCNT-1]`, the next bit to send (R25). -/
def State.txBit (s : State) : Bool := s.txsr.getLsbD (s.txcnt.toNat - 1)

/-- `TXCNT <- TXCNT - 1` (R31 row `T5`). -/
def State.countTx (s : State) : State := { s with txcnt := s.txcnt - 1 }

/-- `acc <- trunc_16((acc << 1) | b)` (R12 c). -/
def rxShift (acc : Word) (b : Bool) : Word := (acc <<< 1) ||| (BitVec.ofBool b).setWidth 16

/-- `RXCNT <- 16` (R31 row `X0`). -/
def State.startReceive (s : State) : State := { s with rxcnt := 16 }

/-- `acc <- 0` (R103); the starting value does not matter (R25). -/
def State.clearAcc (s : State) : State := { s with rxacc := 0 }

/-- The received bit `b` enters `RXACC` and `RXCNT` counts down (R25, R31 row `X5`). -/
def State.shiftIn (s : State) (b : Bool) : State :=
  { s with rxacc := rxShift s.rxacc b, rxcnt := s.rxcnt - 1 }

/-- `RDATA <- RXACC` (R24, R31 row `E1`). -/
def State.latchRead (s : State) : State := { s with rdata := s.rxacc }

end Sys2Proof.Machine
end

