-- ==== Sys2Proof/Machine/Flags.lean ====
section
/-! DEFINITION. The flags `BUSY`, `OK`, `RDY` (R29), the poll counter (R26), and how an operation begins and ends (R23, R31 `finish`, R40). -/

namespace Sys2Proof.Machine

/-- Acceptance of a request (R23, R31 row `IDLE`): `OPR` takes the code, `BUSY <- 1`, `STAGE <- 0`. The
operand latches follow, for an operation that has the operand (log 8). -/
def State.accept (s : State) (op : OpCode) : State :=
  { s with opr := op, busy := true, stage := .enableFrame, rspValid := false }

/-- `finish(v)` (R31, R40): `OK <- v`, `BUSY <- 0`, `STEP <- IDLE`, and the response is posted. It is the
one way an operation ends; no failure ends one otherwise (R170, R174). -/
def State.finish (s : State) (v : Bool) : State :=
  { s with ok := v, busy := false, step := .idle, rspValid := true }

/-- `RDY <- v`, the result of a poll (R26, R31 rows `W7`, `W8`). -/
def State.setRdy (s : State) (v : Bool) : State := { s with rdy := v }

/-- `POLLCNT <- 0` (R26, R31 row `W2`). -/
def State.clearPoll (s : State) : State := { s with pollcnt := 0 }

/-- `POLLCNT <- POLLCNT + 1` (R26, R31 row `W5`). -/
def State.countPoll (s : State) : State := { s with pollcnt := s.pollcnt + 1 }

end Sys2Proof.Machine
end

