-- ==== Sys2Proof/Machine/Transport.lean ====
section
/-! DEFINITION. The Bit-Level Transport primitives (40_transport.md): TXBITS, TXADDR, TXWORD, RXWORD. None touches `CS`. -/

namespace Sys2Proof.Machine

/-- One bit of `transmit-bits` (R100): clock inactive, delay, data, delay, clock active, delay. -/
def State.txBit1 (s : State) (b : Bool) : State :=
  ((((((s.driveSk false).delay).driveDi b).delay).driveSk true).delay)

/-- The loop of `transmit-bits` (R100), for `i` from `count - 1` down to 0. -/
def txLoop (value : Word) : Nat → State → State
  | 0, s => s
  | i + 1, s => txLoop value i (s.txBit1 (value.getLsbD i))

/-- `transmit-bits(value, count)` (R100): the loop, then the clock is left inactive. -/
def transmitBits (value : Word) (count : Nat) (s : State) : State :=
  (txLoop value count s).driveSk false

/-- `transmit-address(address)` (R101). -/
def transmitAddress (address : Nat) (s : State) : State :=
  transmitBits ((trunc6 address).setWidth 16) 6 s

/-- `transmit-word(word)` (R102). -/
def transmitWord (word : Word) (s : State) : State := transmitBits word 16 s

/-- One bit of `receive-word` (R103): clock active, delay, clock inactive, delay, sample and shift. -/
def State.rxBit1 (s : State) : State :=
  let s1 := (((s.driveSk true).delay).driveSk false).delay
  s1.sampled.shiftIn s1.doLevel

/-- `n` iterations of the loop of `receive-word` (R103). -/
def rxLoop : Nat → State → State
  | 0, s => s
  | n + 1, s => rxLoop n s.rxBit1

/-- `receive-word()` (R103): the word is left in `RXACC` (R25). -/
def receiveWord (s : State) : State := rxLoop 16 ((s.driveDi false).clearAcc.startReceive)

/-- The groups of a frame, each one `transmit-bits` (D7). -/
def sendGroups : List (Word × Nat) → State → State
  | [], s => s
  | g :: gs, s => sendGroups gs (transmitBits g.1 g.2 s)

/-- `CS(1)` and a whole frame (R111, R112, R120, R121); the frame passes through `TXSR` (R25, R31). -/
def sendFrame (f : Frame) (s : State) : State :=
  (sendGroups f.groups ((s.driveCs true).loadFrame f)).frameSent

/-- The end of a transaction: `CS(0)`, then `DI(0)` (R111, R112, R120, R121). -/
def State.closeTransaction (s : State) : State := (s.driveCs false).driveDi false

/-- `TXBITS`: `transmit-bits(value, count)`, `count` 0 to 16 (R100); no flag and no result. -/
def execTxbits (value : Word) (count : Nat) (s : State) : Host.Outcome State Fault Refusal :=
  if count ≤ 16 then .next (transmitBits value count s) else .refused .countOutOfRange

/-- `TXADDR` (R101). -/
def execTxaddr (address : Nat) (s : State) : Host.Outcome State Fault Refusal :=
  .next (transmitAddress address s)

/-- `TXWORD` (R102). -/
def execTxword (word : Word) (s : State) : Host.Outcome State Fault Refusal :=
  .next (transmitWord word s)

/-- `RXWORD` (R103). -/
def execRxword (s : State) : Host.Outcome State Fault Refusal := .next (receiveWord s)

end Sys2Proof.Machine
end

