-- ==== Sys2Proof/Machine/Control.lean ====
section
/-! DEFINITION. The control operations (41_control_commands.md): INIT, EWEN, EWDS; and the reserved request codes (R89). -/

namespace Sys2Proof.Machine

/-- `initialize()` (R110): the three lines go to idle, no delay (R113); the result is 1 (D14). -/
def execInit (s : State) : Host.Outcome State Fault Refusal :=
  .next (((((s.accept .init).driveCs false).driveSk false).driveDi false).finish true)

/-- The events of `write_enable()` (R111), also the first part of a `write`. -/
def writeEnable (s : State) : State := (sendFrame .ewen s).closeTransaction

/-- The events of `write_disable()` (R112), also the last part of a `write`. -/
def writeDisable (s : State) : State := (sendFrame .ewds s).closeTransaction

/-- `write_enable()` (R111): always reports success. -/
def execEwen (s : State) : Host.Outcome State Fault Refusal :=
  .next ((writeEnable (s.accept .ewen)).finish true)

/-- `write_disable()` (R112): always reports success. -/
def execEwds (s : State) : Host.Outcome State Fault Refusal :=
  .next ((writeDisable (s.accept .ewds)).finish true)

/-- Reserved request code 6 (R89 a): accepted, no event, completed at once with `OK = 0` (log 10). -/
def execReserved6 (s : State) : Host.Outcome State Fault Refusal :=
  .next ((s.accept .reserved6).finish false)

/-- Reserved request code 7 (R89 a; log 10). -/
def execReserved7 (s : State) : Host.Outcome State Fault Refusal :=
  .next ((s.accept .reserved7).finish false)

end Sys2Proof.Machine
end

