-- ==== Sys2Proof/Machine/Poll.lean ====
section
/-! DEFINITION. The ready/busy poll (43_ready_poll.md): WAITRDY, also the third stage of a WRITE. -/

namespace Sys2Proof.Machine

/-- The loop of `wait_ready` with `n` iterations left before the ceiling (R130). -/
def pollLoop : Nat → State → State
  | 0, s => (s.driveCs false).setRdy false
  | n + 1, s =>
    let s1 := s.driveSk true
    if s1.doLevel then ((s1.sampled.driveSk false).driveCs false).setRdy true
    else pollLoop n ((s1.sampled.driveSk false).countPoll)

/-- `wait_ready()` (R130): `RDY` is 1 as soon as a sample is 1, and 0 when `POLL_CEILING` is reached. -/
def waitReady (s : State) : State :=
  pollLoop s.params.pollCeiling.toNat ((((s.driveDi false).driveSk false).driveCs true).clearPoll)

/-- `WAITRDY` requested on its own (R130): `OK <- RDY`. -/
def execWaitrdy (s : State) : Host.Outcome State Fault Refusal :=
  .next ((waitReady (s.accept .waitrdy)).finish (waitReady (s.accept .waitrdy)).rdy)

end Sys2Proof.Machine
end

