-- ==== Sys2Proof/Machine/Data.lean ====
section
/-! DEFINITION. The data operations (42_data_commands.md): READ and WRITE. -/

namespace Sys2Proof.Machine

/-- `read(address)` (R120): the read frame, the received word into `RDATA`, always success. -/
def execRead (address : Nat) (s : State) : Host.Outcome State Fault Refusal :=
  .next (((receiveWord (sendFrame (.read (trunc6 address))
    ((s.accept .read).latchAddr address))).closeTransaction).latchRead.finish true)

/-- The four transactions of `write(address, word)` (R121), with `STAGE` 0 to 3 (R27). -/
def writeSequence (address : Nat) (word : Word) (s : State) : State :=
  let s0 := writeEnable s
  let s1 := (sendFrame (.write (trunc6 address) word) (s0.setStage .writeFrame)).closeTransaction
  let s2 := waitReady (s1.setStage .poll)
  writeDisable (s2.setStage .disableFrame)

/-- `write(address, word)` (R121): the result is the poll's, and the write-disable frame is sent
whatever it is. -/
def execWrite (address : Nat) (word : Word) (s : State) : Host.Outcome State Fault Refusal :=
  let t := writeSequence address word (((s.accept .write).latchAddr address).latchWord word)
  .next (t.finish t.rdy)

end Sys2Proof.Machine
end

