-- ==== Sys2Proof/Machine/Declared.lean ====
section
/-! DEFINITION. The eight operations that are declared and not implemented (44_declared_unimplemented.md): no request code, no frame, no effect in any source, so each is refused by name (R140; log 19). -/

namespace Sys2Proof.Machine

/-- `EepErase` (R140). -/
def execErase (_s : State) : Host.Outcome State Fault Refusal := .refused (.declaredNotImplemented "EepErase")

/-- `EepErAll` (R140). -/
def execEral (_s : State) : Host.Outcome State Fault Refusal := .refused (.declaredNotImplemented "EepErAll")

/-- `EepWriteAll` (R140). -/
def execWral (_s : State) : Host.Outcome State Fault Refusal := .refused (.declaredNotImplemented "EepWriteAll")

/-- `EepMlRead` (R140, R143). -/
def execMlread (_s : State) : Host.Outcome State Fault Refusal := .refused (.declaredNotImplemented "EepMlRead")

/-- `EepMlWrite` (R140, R143). -/
def execMlwrite (_s : State) : Host.Outcome State Fault Refusal := .refused (.declaredNotImplemented "EepMlWrite")

/-- `EepTest` (R140, R180). -/
def execEepTest (_s : State) : Host.Outcome State Fault Refusal := .refused (.declaredNotImplemented "EepTest")

/-- `EepCheckRdy` (R140). -/
def execCheckrdy (_s : State) : Host.Outcome State Fault Refusal := .refused (.declaredNotImplemented "EepCheckRdy")

/-- `EepEnd` (R140). -/
def execEepEnd (_s : State) : Host.Outcome State Fault Refusal := .refused (.declaredNotImplemented "EepEnd")

end Sys2Proof.Machine
end

