-- ==== Sys2Proof/Machine/Dispatch.lean ====
section
/-! DEFINITION. One arm per constructor of Instr, each a direct call of its meaning. -/

namespace Sys2Proof.Machine

def exec (i : Instr) (s : State) : Host.Outcome State Fault Refusal :=
  match i with
  -- 41_control_commands.md
  | .init => Sys2Proof.Machine.execInit s
  | .ewen => Sys2Proof.Machine.execEwen s
  | .ewds => Sys2Proof.Machine.execEwds s
  -- 42_data_commands.md
  | .read address => Sys2Proof.Machine.execRead address s
  | .write address word => Sys2Proof.Machine.execWrite address word s
  -- 43_ready_poll.md
  | .waitrdy => Sys2Proof.Machine.execWaitrdy s
  -- 30_encoding.md R89
  | .reserved6 => Sys2Proof.Machine.execReserved6 s
  | .reserved7 => Sys2Proof.Machine.execReserved7 s
  -- 40_transport.md
  | .txbits value count => Sys2Proof.Machine.execTxbits value count s
  | .txaddr address => Sys2Proof.Machine.execTxaddr address s
  | .txword word => Sys2Proof.Machine.execTxword word s
  | .rxword => Sys2Proof.Machine.execRxword s
  -- 44_declared_unimplemented.md
  | .erase => Sys2Proof.Machine.execErase s
  | .eral => Sys2Proof.Machine.execEral s
  | .wral => Sys2Proof.Machine.execWral s
  | .mlread => Sys2Proof.Machine.execMlread s
  | .mlwrite => Sys2Proof.Machine.execMlwrite s
  | .eepTest => Sys2Proof.Machine.execEepTest s
  | .checkrdy => Sys2Proof.Machine.execCheckrdy s
  | .eepEnd => Sys2Proof.Machine.execEepEnd s

end Sys2Proof.Machine
end

