-- ==== Sys2Proof/Machine/Sequencer.lean ====
section
/-! DEFINITION. The sequencer of R30 and R31, event by event: one `tick` is one row of the table. -/

namespace Sys2Proof.Machine

/-- The step emits its event and goes on: `STEP <- x`, and no operation completes. -/
def State.goOn (s : State) (x : SeqStep) : Host.Outcome State Fault Refusal := .next (s.goto x).quiet

/-- The row `IDLE` of R31 for an accepted request: the latches of R23, and the successor by `OPR`. -/
def State.acceptRow (s : State) (r : Request) : State :=
  match OpCode.ofCode r.op with
  | .init => (s.accept .init).goto .i0
  | .ewen => (s.accept .ewen).goto .f0
  | .ewds => (s.accept .ewds).goto .f0
  | .read => ((s.accept .read).latchAddr r.addr).goto .f0
  | .write => (((s.accept .write).latchAddr r.addr).latchWord r.wdata).goto .f0
  | .waitrdy => (s.accept .waitrdy).goto .w0
  | .reserved6 => (s.accept .reserved6).finish false
  | .reserved7 => (s.accept .reserved7).finish false

/-- The row `E1` of R31, after its `DI(0)`: the end of a transaction. -/
def State.endRow (s : State) : Host.Outcome State Fault Refusal :=
  match s.opr, s.stage with
  | .ewen, _ => .next (s.finish true)
  | .ewds, _ => .next (s.finish true)
  | .read, _ => .next (s.latchRead.finish true)
  | .write, .enableFrame => (s.setStage .writeFrame).goOn .f0
  | .write, .writeFrame => (s.setStage .poll).goOn .w0
  | .write, .disableFrame => .next (s.finish s.rdy)
  | .write, .poll => .fault .offTable
  | .init, _ | .waitrdy, _ | .reserved6, _ | .reserved7, _ => .fault .offTable

/-- The rows `W7` and `W8` of R31, after their `CS(0)`: the end of a poll with result `v`. -/
def State.pollEndRow (s : State) (v : Bool) : Host.Outcome State Fault Refusal :=
  match s.opr with
  | .waitrdy => .next ((s.setRdy v).finish v)
  | .write => ((s.setRdy v).setStage .disableFrame).goOn .f0
  | .init | .ewen | .ewds | .read | .reserved6 | .reserved7 => .fault .offTable

/-- One step of the sequencer (R30, R31): the one event of the current `STEP`, its register updates, its
successor. With no request to take, `IDLE` emits nothing and stays (R40, R181). -/
def tick (s : State) : Host.Outcome State Fault Refusal :=
  match s.step with
  | .idle =>
    match s.fetch with
    | none => .next s.quiet
    | some (r, s1) => .next (s1.acceptRow r)
  | .i0 => (s.driveCs false).goOn .i1
  | .i1 => (s.driveSk false).goOn .i2
  | .i2 => .next ((s.driveDi false).finish true)
  | .f0 =>
    match s.frame with
    | none => .fault .offTable
    | some f => ((s.driveCs true).loadFrame f).goOn .t0
  | .t0 => (s.driveSk false).goOn .t1
  | .t1 => s.delay.goOn .t2
  | .t2 =>
    if s.txcnt = 0 ∨ 25 < s.txcnt.toNat then .fault .offTable
    else (s.driveDi s.txBit).goOn .t3
  | .t3 => s.delay.goOn .t4
  | .t4 => (s.driveSk true).goOn .t5
  | .t5 =>
    if s.txcnt = 0 then .fault .offTable
    else s.delay.countTx.goOn (if s.txcnt - 1 = 0 then .t6 else .t0)
  | .t6 => (s.driveSk false).goOn (if s.opr = .read then .x0 else .e0)
  | .x0 => (s.driveDi false).startReceive.goOn .x1
  | .x1 => (s.driveSk true).goOn .x2
  | .x2 => s.delay.goOn .x3
  | .x3 => (s.driveSk false).goOn .x4
  | .x4 => s.delay.goOn .x5
  | .x5 =>
    if s.rxcnt = 0 then .fault .offTable
    else (s.sampled.shiftIn s.doLevel).goOn (if s.rxcnt - 1 = 0 then .e0 else .x1)
  | .e0 => (s.driveCs false).goOn .e1
  | .e1 => (s.driveDi false).endRow
  | .w0 => (s.driveDi false).goOn .w1
  | .w1 => (s.driveSk false).goOn .w2
  | .w2 => (s.driveCs true).clearPoll.goOn (if s.params.pollCeiling = 0 then .w8 else .w3)
  | .w3 => (s.driveSk true).goOn .w4
  | .w4 => s.sampled.goOn (if s.doLevel then .w6 else .w5)
  | .w5 =>
    (s.driveSk false).countPoll.goOn (if s.pollcnt + 1 = s.params.pollCeiling then .w8 else .w3)
  | .w6 => (s.driveSk false).goOn .w7
  | .w7 => (s.driveCs false).pollEndRow true
  | .w8 => (s.driveCs false).pollEndRow false

/-- `n` steps of the sequencer. -/
def runTicks : Nat → State → Host.Outcome State Fault Refusal
  | 0, s => .next s
  | n + 1, s =>
    match tick s with
    | .next t => runTicks n t
    | .fault r => .fault r
    | .refused r => .refused r

end Sys2Proof.Machine
end

