-- ==== Sys2Proof/Machine/Step.lean ====
section
/-! DEFINITION. One step of the machine, and the placing of one request for it. -/

namespace Sys2Proof.Machine

/-- One step (log 4). In `IDLE` the block takes the host's next request (R31, R33) and runs its operation
to its `finish` (R40), as files 41 to 43 describe it; with no request it stays idle. In the middle of
an operation the step is one row of the sequencer table (R31). -/
def step (s : State) : Host.Outcome State Fault Refusal :=
  if s.step = .idle then
    match s.fetch with
    | none => .next s.quiet
    | some (r, s1) => exec (decodeRequest r) s1
  else tick s

/-- The state with an opcode-table word's request on the port and the block ready for it, so that the
next step runs it (log 5); a word that is no request leaves the port empty. -/
def State.withFetchWord (s : State) (nbits w : Nat) : State :=
  match parseTableWord nbits w with
  | .ok r => s.offer r
  | .error _ => { s with hostQueue := [] }

end Sys2Proof.Machine
end

