-- ==== Sys2Proof/Machine/Clocked.lean ====
section
/-! DEFINITION. The clocked realisation (R28, R190, D18): one `clk` cycle, with the synchronous reset and the delay counter `DLYCNT`. Nothing else of the model depends on it. -/

namespace Sys2Proof.Machine

/-- The rows of R31 whose event is `DLY`. -/
def SeqStep.isDelay : SeqStep → Bool
  | .t1 | .t3 | .t5 | .x2 | .x4 => true
  | .idle | .i0 | .i1 | .i2 | .f0 | .t0 | .t2 | .t4 | .t6 | .x0 | .x1 | .x3 | .x5
  | .e0 | .e1 | .w0 | .w1 | .w2 | .w3 | .w4 | .w5 | .w6 | .w7 | .w8 => false

/-- What `rst = 1` does (R38, R190): the control state takes its reset values; pins and data registers,
which R38 leaves unspecified, stay (log 17). -/
def State.controlReset (s : State) : State :=
  { s with step := .idle, busy := false, stage := .enableFrame, rspValid := false }

/-- `DLYCNT <- n` (R28). -/
def State.setDly (s : State) (n : Nat) : State := { s with dlycnt := n }

/-- `DLYCNT <- DELAY_CYCLES` on entering a `DLY` row, else 0 (R28; log 17). -/
def State.loadDly (s : State) : State :=
  s.setDly (if s.step.isDelay then s.params.delayCycles else 0)

/-- One cycle of `clk` (R190): a step of R31 other than a `DLY` step takes one cycle, a `DLY` step takes
`DELAY_CYCLES` of them, counted down in `DLYCNT` (R28). -/
def clkStep (rst : Bool) (s : State) : Host.Outcome State Fault Refusal :=
  if rst then .next s.controlReset
  else if s.step.isDelay && decide (2 ≤ s.dlycnt) then .next (s.setDly (s.dlycnt - 1)).quiet
  else
    match tick s with
    | .next t => .next t.loadDly
    | .fault r => .fault r
    | .refused r => .refused r

/-- `n` cycles with `rst = 0`. -/
def runClk : Nat → State → Host.Outcome State Fault Refusal
  | 0, s => .next s
  | n + 1, s =>
    match clkStep false s with
    | .next t => runClk n t
    | .fault r => .fault r
    | .refused r => .refused r

end Sys2Proof.Machine
end

