-- ==== Sys2Proof/Machine/EnvRef.lean ====
section
/-! DEFINITION. The reference device ENV-REF (45_device_environment.md R153 to R156), a watcher of the pin trace, for tests and for the properties of R157 only. It is environment, not state of the block (R150), and the block's meanings do not use it. -/

namespace Sys2Proof.Machine

/-- `mode` of R153. -/
inductive EnvMode where
  | cmd
  | rdout
deriving DecidableEq, Repr

/-- `status` of R153; `busyForever` is `busy(∞)`. -/
inductive EnvStatus where
  | none
  | busy (n : Nat)
  | busyForever
deriving DecidableEq, Repr

/-- The state of ENV-REF, with its parameter `BUSY_POLLS` (`none` is ∞) (R153). -/
structure EnvRef where
  mem       : Vector Word 64
  wen       : Bool
  cs        : Bool
  sk        : Bool
  di        : Bool
  started   : Bool
  rx        : List Bool
  mode      : EnvMode
  q         : List Bool
  /-- `none` is `Z`, not driven. -/
  dout      : Option Bool
  status    : EnvStatus
  busyPolls : Option Nat
deriving DecidableEq, Repr

/-- The initial state of R153. R153 gives `started`, `rx`, `mode` and `q` no initial value: those set here are
the model's choice (log 25). -/
def EnvRef.fresh (busyPolls : Option Nat) : EnvRef :=
  { mem := Vector.replicate 64 0, wen := false, cs := false, sk := false, di := false
    started := false, rx := [], mode := .cmd, q := [], dout := none, status := .none
    busyPolls := busyPolls }

/-- `MemRead(a, 1)` (R11): one word. -/
def EnvRef.memRead (d : EnvRef) (a : Addr) : Word := d.mem[a.toNat]'a.isLt

/-- `MemWrite(a, 1, v)` (R11): one word. -/
def EnvRef.memWrite (d : EnvRef) (a : Addr) (v : Word) : EnvRef :=
  { d with mem := d.mem.set a.toNat v a.isLt }

/-- The address field of a collected frame: the bits `rx[2..7]` (R154). -/
def rxAddr (rx : List Bool) : Addr := BitVec.ofNat 6 (natOfBits ((rx.drop 2).take 6))

/-- The data field of a collected write frame: the bits `rx[8..23]` (R154). -/
def rxData (rx : List Bool) : Word := BitVec.ofNat 16 (natOfBits ((rx.drop 8).take 16))

/-- The status a write starts: `busy(BUSY_POLLS)` (R154). -/
def EnvRef.startBusy (d : EnvRef) : EnvStatus :=
  match d.busyPolls with
  | some n => .busy n
  | .none => .busyForever

/-- A bit taken after the start bit (R154): it joins `rx`, and a complete read frame begins the
read-out, with a leading dummy 0 on `DO`. -/
def EnvRef.takeBit (d : EnvRef) : EnvRef :=
  let rx := d.rx ++ [d.di]
  if rx.length = 8 ∧ rx.take 2 = [true, false] then
    { d with rx := rx, q := msbFirst (d.memRead (rxAddr rx)) 16, mode := .rdout, dout := some false }
  else { d with rx := rx }

/-- A rising clock edge while selected (R154). -/
def EnvRef.edge (d : EnvRef) : EnvRef :=
  match d.mode with
  | .cmd =>
    if d.started then d.takeBit
    else if d.di then { d with started := true, status := .none, dout := none }
    else d
  | .rdout =>
    match d.q with
    | b :: q => { d with dout := some b, q := q }
    | [] => { d with dout := none }

/-- The collected frame is executed at `CS(0)` (R154). -/
def EnvRef.execute (d : EnvRef) : EnvRef :=
  if d.rx.length = 8 ∧ d.rx.take 4 = [false, false, true, true] then { d with wen := true }
  else if d.rx.length = 8 ∧ d.rx.take 4 = [false, false, false, false] then { d with wen := false }
  else if d.rx.length = 24 ∧ d.rx.take 2 = [false, true] then
    if d.wen then { (d.memWrite (rxAddr d.rx) (rxData d.rx)) with status := d.startBusy } else d
  else d

/-- The answer ENV-REF gives a sample (R155): `none` where it leaves the level open (R156). -/
def EnvRef.shows (d : EnvRef) : Option Bool :=
  if d.cs = true ∧ d.mode = .cmd ∧ d.started = false then
    match d.status with
    | .busyForever => some false
    | .busy (_ + 1) => some false
    | .busy 0 => some true
    | .none => d.dout
  else d.dout

/-- What a sample does to ENV-REF (R155): a busy count goes down. -/
def EnvRef.afterSample (d : EnvRef) : EnvRef :=
  if d.cs = true ∧ d.mode = .cmd ∧ d.started = false then
    match d.status with
    | .busy (n + 1) => { d with status := .busy n }
    | .busy 0 | .busyForever | .none => d
  else d

/-- ENV-REF meets one event of the pin trace (R154, R155); `none` if the event is a sample that it
would have answered otherwise. -/
def EnvRef.meet (d : EnvRef) : Event → Option EnvRef
  | .di l => some { d with di := l }
  | .dly => some d
  | .sk false => some { d with sk := false }
  | .sk true =>
    if d.sk = false ∧ d.cs = true then some { d with sk := true }.edge else some { d with sk := true }
  | .cs true =>
    if d.cs then some d
    else some { d with cs := true, started := false, rx := [], mode := .cmd, dout := none }
  | .cs false =>
    if d.cs then
      if d.mode = .cmd ∧ d.started = true then some { d with cs := false, dout := none }.execute
      else some { d with cs := false, dout := none }
    else some d
  | .smp b =>
    match d.shows with
    | some b' => if b = b' then some d.afterSample else none
    | none => some d.afterSample

/-- ENV-REF meets a sequence of events. -/
def EnvRef.meetAll : EnvRef → List Event → Option EnvRef
  | d, [] => some d
  | d, e :: t =>
    match d.meet e with
    | some d' => d'.meetAll t
    | none => none

/-- ENV-REF watches an event trace that starts from the line state `l`: it meets its pin trace (R10,
R154). -/
def EnvRef.watch (d : EnvRef) (l : Lines) (t : List Event) : Option EnvRef := d.meetAll (pinTrace l t)

/-- ENV-REF sees the idle lines. -/
def EnvRef.seesIdle (d : EnvRef) : Prop := d.cs = false ∧ d.sk = false ∧ d.di = false

end Sys2Proof.Machine
end

