-- ==== Sys2Proof/Safety.lean ====
section
/-! DEFINITION. What the statements speak of: the invariant of the machine, what it means that an operation may be requested, and the words for samples and polls. -/

namespace Sys2Proof.Machine

/-- The block is ready for a request: `STEP = IDLE`, `BUSY = 0` (R33, R41). -/
def State.ready (s : State) : Prop := s.step = .idle ∧ s.busy = false

/-- The running operation sends a frame now: `OPR` and `STAGE` are those of a row of R32. -/
def State.inFrame (s : State) : Bool :=
  match s.opr, s.stage with
  | .ewen, .enableFrame | .ewds, .enableFrame | .read, .enableFrame => true
  | .write, .enableFrame | .write, .writeFrame | .write, .disableFrame => true
  | _, _ => false

/-- The running operation polls now (R31: `WAITRDY`, or `WRITE` in stage 2). -/
def State.inPoll (s : State) : Bool :=
  match s.opr, s.stage with
  | .waitrdy, .enableFrame | .write, .poll => true
  | _, _ => false

/-- `TXSR` holds the frame being sent, `TXCNT` of its bits not yet sent (R25), with chip-select active. -/
def State.sending (s : State) : Bool :=
  s.inFrame && s.cs && decide (1 ≤ s.txcnt.toNat) &&
    match s.frame with
    | some f => (s.txsr == f.value) && decide (s.txcnt.toNat ≤ f.length)
    | none => false

/-- A word is being received: `RXCNT` of its bits are to come (R25), `CS` active, `DI` low (R103). -/
def State.receiving (s : State) : Bool :=
  (s.opr == .read) && (s.stage == .enableFrame) && s.cs && !s.di &&
    decide (1 ≤ s.rxcnt.toNat) && decide (s.rxcnt.toNat ≤ 16)

/-- A poll is open: `CS` active, `DI` low (R130 f). -/
def State.polling (s : State) : Bool := s.inPoll && s.cs && !s.di

/-- The registers fit the row of R31 that `STEP` names. -/
def State.fitsRow (s : State) : Bool :=
  match s.step with
  | .idle => true
  | .i0 => (s.opr == .init) && (s.stage == .enableFrame)
  | .i1 => (s.opr == .init) && (s.stage == .enableFrame) && !s.cs
  | .i2 => (s.opr == .init) && (s.stage == .enableFrame) && !s.cs && !s.sk
  | .f0 => s.inFrame
  | .t0 => s.sending
  | .t1 | .t2 | .t3 | .t4 => s.sending && !s.sk
  | .t5 => s.sending && s.sk
  | .t6 => s.inFrame && s.cs && s.sk && (s.txcnt == 0)
  | .x0 => (s.opr == .read) && (s.stage == .enableFrame) && s.cs && !s.sk
  | .x1 => s.receiving && !s.sk
  | .x2 | .x3 => s.receiving && s.sk
  | .x4 | .x5 => s.receiving && !s.sk
  | .e0 => s.inFrame && s.cs && !s.sk
  | .e1 => s.inFrame && !s.cs && !s.sk
  | .w0 => s.inPoll
  | .w1 => s.inPoll && !s.di
  | .w2 => s.inPoll && !s.di && !s.sk
  | .w3 => s.polling && !s.sk && decide (s.pollcnt.toNat < s.params.pollCeiling.toNat)
  | .w4 | .w5 | .w6 => s.polling && s.sk && decide (s.pollcnt.toNat < s.params.pollCeiling.toNat)
  | .w7 => s.polling && !s.sk
  | .w8 => s.polling && !s.sk && (s.pollcnt == s.params.pollCeiling)

/-- The machine's invariant: `BUSY` is 1 exactly while an operation runs (R29), the registers fit the
sequencer row, the parameters are legal (R6), and the host's requests fit on its port (R33). -/
structure State.Inv (s : State) : Prop where
  busy_iff : s.busy = true ↔ s.step ≠ .idle
  fits     : s.fitsRow = true
  params   : s.params.legal
  host     : ∀ r ∈ s.hostQueue, r.fits s.params = true

/-- The environment after `n` samples: its next `n` answers are used up (log 3). -/
def State.consumed (s : State) (n : Nat) : State :=
  { s with doAnswers := s.doAnswers.drop n, smpCount := s.smpCount + n }

/-- The first of the next `n` answers that is 1, if any: the iteration in which a poll sees ready (R130). -/
def State.firstReady (s : State) (n : Nat) : Option Nat := (List.range n).find? s.answer

/-- The word whose bits, most significant first, these samples are (R61, R103). -/
def wordOfSamples (samples : List Bool) : Word := BitVec.ofNat 16 (natOfBits samples)

/-- The events of a poll with `n` iterations allowed (R130). -/
def State.pollEvents (s : State) (n : Nat) : List Event :=
  match s.firstReady n with
  | some k => readyEvents k
  | none => timeoutEvents n

/-- How many samples a poll with `n` iterations allowed takes (R130). -/
def State.pollSamples (s : State) (n : Nat) : Nat :=
  match s.firstReady n with
  | some k => k + 1
  | none => n

/-- The state with an empty trace: two runs that differ only in their events agree in it. -/
def State.noTrace (s : State) : State := { s with trace := [] }

/-- Every change of `DI` in a trace comes while the clock is inactive (R100, R196): redundant drives, which
the pins do not show (R10), apart. -/
def diChangesOnlyLow (l : Lines) : List Event → Bool
  | [] => true
  | e :: t =>
    (match e with
      | .di b => (l.di == b) || !l.sk
      | .cs _ | .sk _ | .dly | .smp _ => true) && diChangesOnlyLow (l.after e) t

/-- The sequencer, started in this state, completes an operation in exactly `n` steps, and posts the
response in the last (R33, R40). -/
def State.completesIn (s : State) (n : Nat) : Prop :=
  (∃ u, runTicks n s = .next u ∧ u.step = .idle ∧ u.rspValid = true) ∧
    ∀ m, 0 < m → m < n → ∀ v, runTicks m s = .next v → v.step ≠ .idle

/-- The outcome is a next state. -/
def isNext : Host.Outcome State Fault Refusal → Bool
  | .next _ => true
  | .fault _ => false
  | .refused _ => false

end Sys2Proof.Machine
end

