-- ==== Sys2Proof/Certificates/Slice0/Obligations.lean ====
section
/-! DEFINITION. The statements for the provers. -/

open Sys2Proof Sys2Proof.Machine

/-! ## Encodings -/

/-- R88: the request codes, and which operands each code uses. -/
def Obligations.RequestCodesNameOperations : Prop :=
  ∀ (a : Nat) (w : Word),
    decodeRequest ⟨0b000#3, a, w⟩ = .init ∧
    decodeRequest ⟨0b001#3, a, w⟩ = .ewen ∧
    decodeRequest ⟨0b010#3, a, w⟩ = .ewds ∧
    decodeRequest ⟨0b011#3, a, w⟩ = .read a ∧
    decodeRequest ⟨0b100#3, a, w⟩ = .write a w ∧
    decodeRequest ⟨0b101#3, a, w⟩ = .waitrdy ∧
    decodeRequest ⟨0b110#3, a, w⟩ = .reserved6 ∧
    decodeRequest ⟨0b111#3, a, w⟩ = .reserved7

/-- Opcode-table words written out from R87, R88, in the packet form of log 6 (the model's choice). -/
def Obligations.TableWordsDecode : Prop :=
  decodeTableWord 8 0x0 = some .init ∧ decodeTableWord 8 0x1 = some .ewen ∧
  decodeTableWord 8 0x2 = some .ewds ∧ decodeTableWord 8 0x3 = some (.read 0) ∧
  decodeTableWord 8 0x4 = some (.write 0 0) ∧ decodeTableWord 8 0x5 = some .waitrdy ∧
  decodeTableWord 8 0x6 = some .reserved6 ∧ decodeTableWord 8 0x7 = some .reserved7 ∧
  decodeTableWord 8 0x8 = none ∧
  decodeTableWord 32 0x85000003 = some (.read 0x85) ∧
  decodeTableWord 32 0x05123404 = some (.write 5 0x1234)

/-- The packet of every well-formed requestable instruction decodes to it again, under any parameters
(the packet form is log 6; the codes are R88). -/
def Obligations.EncodedInstructionDecodesBack : Prop :=
  ∀ (p : Params) (i : Instr), i.requestable = true → i.wellFormed p = true →
    ∃ bytes, encodePacket p i = some bytes ∧ decodePacket p bytes = .ok i

/-- Whatever bytes decode, decode to a requestable instruction with its operands in range. -/
def Obligations.DecodedInstructionIsWellFormed : Prop :=
  ∀ (p : Params) (bytes : List Byte) (i : Instr), decodePacket p bytes = .ok i →
    i.requestable = true ∧ i.wellFormed p = true

/-- Every frame, with every address and word, is read back from its bits (R80 to R84). -/
def Obligations.FrameBitsParseBack : Prop :=
  ∀ f : Frame, f.bits.length = f.length ∧ parseFrame f.bits = .ok f

/-- Bits that read as a frame are that frame's bits, but for the don't-care bits of a control frame
(R81, R89). -/
def Obligations.ParsedBitsAreTheFrame : Prop :=
  ∀ (bits : List Bool) (f : Frame), parseFrame bits = .ok f →
    bits.length = f.length ∧
      match f with
      | .ewen | .ewds => bits.take 5 = f.bits.take 5
      | .read _ | .write _ _ => bits = f.bits

/-- R82: the control frames as values, fields and bits on the wire, and that nothing is received. -/
def Obligations.ControlFrameFormat : Prop :=
  Frame.ewen.value = 0x130#25 ∧ Frame.ewds.value = 0x100#25 ∧
  Frame.ewen.length = 9 ∧ Frame.ewds.length = 9 ∧
  (∀ f ∈ [Frame.ewen, Frame.ewds], f.value.extractLsb' 8 1 = 1#1 ∧ f.value.extractLsb' 6 2 = 0b00#2 ∧
    f.value.extractLsb' 0 4 = 0b0000#4) ∧
  Frame.ewen.value.extractLsb' 4 2 = 0b11#2 ∧ Frame.ewds.value.extractLsb' 4 2 = 0b00#2 ∧
  (∀ s : State, ∃ (t : State) (T : List Event), exec .ewen s = .next t ∧ t.trace = s.trace ++ T ∧
    bitsTaken s.lines T = [true, false, false, true, true, false, false, false, false] ∧ samplesOf T = []) ∧
  (∀ s : State, ∃ (t : State) (T : List Event), exec .ewds s = .next t ∧ t.trace = s.trace ++ T ∧
    bitsTaken s.lines T = [true, false, false, false, false, false, false, false, false] ∧ samplesOf T = [])

/-- R83: the write frame as a value and its fields. Beyond R83, by R121 and R130: where a `write` sends it,
after the enable frame, before the poll's pulses and the disable frame, and that only the poll samples; the
don't-care bits of the control frames are D5's (log 11). -/
def Obligations.WriteFrameFormat : Prop :=
  ∀ (a : Addr) (d : Word),
    (Frame.write a d).length = 25 ∧
    (Frame.write a d).value = ((0x140#25 ||| a.setWidth 25) <<< 16) ||| d.setWidth 25 ∧
    (Frame.write a d).value.extractLsb' 24 1 = 1#1 ∧
    (Frame.write a d).value.extractLsb' 22 2 = 0b01#2 ∧
    (Frame.write a d).value.extractLsb' 16 6 = a ∧
    (Frame.write a d).value.extractLsb' 0 16 = d ∧
    ∀ s : State, ∃ (t : State) (T : List Event),
      exec (.write a.toNat d) s = .next t ∧ t.trace = s.trace ++ T ∧
      bitsTaken s.lines T = Frame.ewen.bits ++ msbFirst (Frame.write a d).value 25 ++
        List.replicate (s.pollSamples s.params.pollCeiling.toNat) false ++ Frame.ewds.bits ∧
      samplesOf T = s.answers (s.pollSamples s.params.pollCeiling.toNat) ∧
      samplesOf (transactionEvents (.write a d)) = []

/-- R84: the read frame as a value and its fields, and on the wire: nine bits sent, then sixteen pulses
with `DI` at 0, one sample each. -/
def Obligations.ReadFrameFormat : Prop :=
  ∀ a : Addr,
    (Frame.read a).length = 9 ∧
    (Frame.read a).value = 0x180#25 ||| a.setWidth 25 ∧
    (Frame.read a).value.extractLsb' 8 1 = 1#1 ∧
    (Frame.read a).value.extractLsb' 6 2 = 0b10#2 ∧
    (Frame.read a).value.extractLsb' 0 6 = a ∧
    ∀ s : State, ∃ (t : State) (T : List Event),
      exec (.read a.toNat) s = .next t ∧ t.trace = s.trace ++ T ∧
      bitsTaken s.lines T = msbFirst (Frame.read a).value 9 ++ List.replicate 16 false ∧
      samplesOf T = s.answers 16

/-- R85: `initialize` sends no bit at all, and `wait_ready` sends clock pulses with `DI` at 0 only. -/
def Obligations.InitializeAndPollSendNoFrame : Prop :=
  ∀ s : State,
    (∃ (t : State) (T : List Event), exec .init s = .next t ∧ t.trace = s.trace ++ T ∧
      bitsTaken s.lines T = [] ∧ samplesOf T = [] ∧ t.lines = Lines.idle) ∧
    (∃ (t : State) (T : List Event), exec .waitrdy s = .next t ∧ t.trace = s.trace ++ T ∧
      bitsTaken s.lines T = List.replicate (s.pollSamples s.params.pollCeiling.toNat) false ∧
      samplesOf T = s.answers (s.pollSamples s.params.pollCeiling.toNat))

/-! ## Transport primitives -/

/-- R100: `transmit-bits`, its events and its whole effect on the state; `count` above 16 is refused. -/
def Obligations.TransmitBitsEffect : Prop :=
  ∀ (v : Word) (c : Nat) (s : State),
    (c ≤ 16 → exec (.txbits v c) s = .next { s with
      sk := false
      di := if c = 0 then s.di else v.getLsbD 0
      trace := s.trace ++ ((msbFirst v c).flatMap fun b =>
        [Event.sk false, .dly, .di b, .dly, .sk true, .dly]) ++ [.sk false] }) ∧
    (16 < c → exec (.txbits v c) s = .refused .countOutOfRange)

/-- DOC's first property (R100): `TXBITS` gives exactly `c` clock pulses, and `DI` toggles only while the
clock is low, from every line state. -/
def Obligations.TransmitBitsPulsesAndDataWindow : Prop :=
  ∀ (v : Word) (c : Nat) (s : State), c ≤ 16 →
    ∃ (t : State) (T : List Event), exec (.txbits v c) s = .next t ∧ t.trace = s.trace ++ T ∧
      pulsesOf s.lines T = c ∧ delaysOf T = 3 * c ∧ T.length = 6 * c + 1 ∧
      diChangesOnlyLow s.lines T = true

/-- R100: two `TXBITS` in a row have the pin trace of one on the joined value, and end in the same state. -/
def Obligations.TransmitBitsCallsJoin : Prop :=
  ∀ (v1 v2 : Word) (c1 c2 : Nat) (s : State), c1 + c2 ≤ 16 →
    ∃ (t1 t2 u : State) (T U : List Event),
      exec (.txbits v1 c1) s = .next t1 ∧ exec (.txbits v2 c2) t1 = .next t2 ∧
      exec (.txbits ((v1 <<< c2) ||| BitVec.ofNat 16 (v2.toNat % 2 ^ c2)) (c1 + c2)) s = .next u ∧
      t2.trace = s.trace ++ T ∧ u.trace = s.trace ++ U ∧
      pinTrace s.lines T = pinTrace s.lines U ∧ t2.noTrace = u.noTrace

/-- R101: `transmit-address(a)` is `transmit-bits(trunc_6(a), 6)`; its counts and its example. That `TXSR`
and `TXCNT` stay as they were is the model's (log 13). -/
def Obligations.TransmitAddressEffect : Prop :=
  (∀ (a : Nat) (s : State),
    exec (.txaddr a) s = exec (.txbits (BitVec.ofNat 16 (a % 64)) 6) s ∧
    ∃ (t : State) (T : List Event), exec (.txaddr a) s = .next t ∧ t.trace = s.trace ++ T ∧
      T.length = 37 ∧ delaysOf T = 18 ∧ pulsesOf s.lines T = 6 ∧
      t = { s with sk := false, di := a.testBit 0, trace := s.trace ++ T }) ∧
  (∀ s : State, exec (.txaddr 0x45) s = .next { s with
    sk := false, di := true
    trace := s.trace ++ ofLetters "k.d.K.k.d.K.k.d.K.k.D.K.k.d.K.k.D.K.k".toList })

/-- R102: `transmit-word(w)` is `transmit-bits(w, 16)`; its counts and the level it leaves on `DI`. That
`TXSR` and `TXCNT` stay as they were is the model's (log 13). -/
def Obligations.TransmitWordEffect : Prop :=
  ∀ (w : Word) (s : State),
    exec (.txword w) s = exec (.txbits w 16) s ∧
    ∃ (t : State) (T : List Event), exec (.txword w) s = .next t ∧ t.trace = s.trace ++ T ∧
      T.length = 97 ∧ delaysOf T = 48 ∧ pulsesOf s.lines T = 16 ∧
      t = { s with sk := false, di := w.getLsbD 0, trace := s.trace ++ T }

/-- R103: `receive-word`, its events and its whole effect; the word's bit 15 is the first sample. -/
def Obligations.ReceiveWordEffect : Prop :=
  ∀ s : State, exec .rxword s = .next { s.consumed 16 with
    sk := false, di := false
    rxacc := wordOfSamples (s.answers 16)
    rxcnt := 0
    trace := s.trace ++ .di false :: ((s.answers 16).flatMap fun b =>
      [Event.sk true, .dly, .sk false, .dly, .smp b]) }

/-- R61, R103: bit `15 - k` of the received word is the `k`-th sample. -/
def Obligations.ReceivedBitsAreMostSignificantFirst : Prop :=
  ∀ (s : State) (k : Nat), k < 16 →
    ∃ t, exec .rxword s = .next t ∧ t.rxacc.getLsbD (15 - k) = s.answer k

/-! ## Control operations -/

/-- R110: `initialize`, its whole effect: three drives, the idle lines, `OK = 1`, nothing else (that only
the operands an operation has are latched is log 8). -/
def Obligations.InitializeEffect : Prop :=
  ∀ s : State, exec .init s = .next { s with
    opr := .init, stage := .enableFrame, step := .idle, busy := false, ok := true, rspValid := true
    cs := false, sk := false, di := false
    trace := s.trace ++ [.cs false, .sk false, .di false] }

/-- R111: `write_enable`, its whole effect, with the spec's own event trace. -/
def Obligations.WriteEnableEffect : Prop :=
  ∀ s : State, exec .ewen s = .next { s with
    opr := .ewen, stage := .enableFrame, step := .idle, busy := false, ok := true, rspValid := true
    cs := false, sk := false, di := false
    txsr := 0x130#25, txcnt := 0
    trace := s.trace ++
      ofLetters "Ck.D.K.kk.d.K.k.d.K.kk.D.K.k.D.K.kk.d.K.k.d.K.k.d.K.k.d.K.kcd".toList }

/-- R112: `write_disable`, its whole effect, with the spec's own event trace. -/
def Obligations.WriteDisableEffect : Prop :=
  ∀ s : State, exec .ewds s = .next { s with
    opr := .ewds, stage := .enableFrame, step := .idle, busy := false, ok := true, rspValid := true
    cs := false, sk := false, di := false
    txsr := 0x100#25, txcnt := 0
    trace := s.trace ++
      ofLetters "Ck.D.K.kk.d.K.k.d.K.kk.d.K.k.d.K.kk.d.K.k.d.K.k.d.K.k.d.K.kcd".toList }

/-- R89 (a): the reserved codes complete at once, with no event and `OK = 0` (log 10). -/
def Obligations.ReservedCodesCompleteWithoutEvent : Prop :=
  ∀ s : State,
    exec .reserved6 s = .next { s with
      opr := .reserved6, stage := .enableFrame, step := .idle, busy := false, ok := false, rspValid := true } ∧
    exec .reserved7 s = .next { s with
      opr := .reserved7, stage := .enableFrame, step := .idle, busy := false, ok := false, rspValid := true }

/-- R140: the eight declared operations have no request code and are refused by name. -/
def Obligations.DeclaredOperationsAreRefused : Prop :=
  (∀ i ∈ [Instr.erase, .eral, .wral, .mlread, .mlwrite, .eepTest, .checkrdy, .eepEnd],
    encodeRequest i = none ∧ ∀ r : Request, decodeRequest r ≠ i) ∧
  ∀ s : State,
    exec .erase s = .refused (.declaredNotImplemented "EepErase") ∧
    exec .eral s = .refused (.declaredNotImplemented "EepErAll") ∧
    exec .wral s = .refused (.declaredNotImplemented "EepWriteAll") ∧
    exec .mlread s = .refused (.declaredNotImplemented "EepMlRead") ∧
    exec .mlwrite s = .refused (.declaredNotImplemented "EepMlWrite") ∧
    exec .eepTest s = .refused (.declaredNotImplemented "EepTest") ∧
    exec .checkrdy s = .refused (.declaredNotImplemented "EepCheckRdy") ∧
    exec .eepEnd s = .refused (.declaredNotImplemented "EepEnd")

/-! ## Data operations and the poll -/

/-- R120: `read`, its whole effect. The left-over transport registers are log 9. -/
def Obligations.ReadEffect : Prop :=
  ∀ (a : Nat) (s : State), exec (.read a) s = .next { s.consumed 16 with
    opr := .read, stage := .enableFrame, step := .idle, busy := false, ok := true, rspValid := true
    addr := BitVec.ofNat 6 (a % 64)
    rdata := wordOfSamples (s.answers 16)
    cs := false, sk := false, di := false
    txsr := 0x180#25 ||| BitVec.ofNat 25 (a % 64), txcnt := 0
    rxacc := wordOfSamples (s.answers 16), rxcnt := 0
    trace := s.trace ++ readEvents (BitVec.ofNat 6 (a % 64)) (s.answers 16) }

/-- R130: `wait_ready`, its whole effect: ready at the first sample of 1, timeout at the ceiling. -/
def Obligations.WaitReadyEffect : Prop :=
  ∀ s : State, exec .waitrdy s = .next { s.consumed (s.pollSamples s.params.pollCeiling.toNat) with
    opr := .waitrdy, stage := .enableFrame, step := .idle, busy := false, rspValid := true
    ok := (s.firstReady s.params.pollCeiling.toNat).isSome
    rdy := (s.firstReady s.params.pollCeiling.toNat).isSome
    cs := false, sk := false, di := false
    pollcnt := BitVec.ofNat 16
      ((s.firstReady s.params.pollCeiling.toNat).getD s.params.pollCeiling.toNat)
    trace := s.trace ++ s.pollEvents s.params.pollCeiling.toNat }

/-- DOC's fourth property (R130): the result is 1 exactly when one of the first `POLL_CEILING` samples is
1, whichever it is. -/
def Obligations.WaitReadyReportsAnyReadySample : Prop :=
  ∀ s : State, ∃ t, exec .waitrdy s = .next t ∧
    (t.ok = true ↔ ∃ k, k < s.params.pollCeiling.toNat ∧ s.answer k = true) ∧
    t.smpCount ≤ s.smpCount + s.params.pollCeiling.toNat

/-- R121: `write`, its whole effect: the enable frame, the write frame, the poll, the disable frame; the
result is the poll's. The left-over transport registers are log 9. -/
def Obligations.WriteEffect : Prop :=
  ∀ (a : Nat) (w : Word) (s : State),
    exec (.write a w) s = .next { s.consumed (s.pollSamples s.params.pollCeiling.toNat) with
      opr := .write, stage := .disableFrame, step := .idle, busy := false, rspValid := true
      ok := (s.firstReady s.params.pollCeiling.toNat).isSome
      rdy := (s.firstReady s.params.pollCeiling.toNat).isSome
      addr := BitVec.ofNat 6 (a % 64), wdata := w
      cs := false, sk := false, di := false
      txsr := 0x100#25, txcnt := 0
      pollcnt := BitVec.ofNat 16
        ((s.firstReady s.params.pollCeiling.toNat).getD s.params.pollCeiling.toNat)
      trace := s.trace ++ transactionEvents .ewen ++
        transactionEvents (.write (BitVec.ofNat 6 (a % 64)) w) ++
        s.pollEvents s.params.pollCeiling.toNat ++ transactionEvents .ewds }

/-- R62: an address above 63 is no error; only its low six bits count. -/
def Obligations.AddressesAreTruncated : Prop :=
  ∀ (a : Nat) (w : Word) (s : State),
    exec (.read a) s = exec (.read (a % 64)) s ∧ exec (.write a w) s = exec (.write (a % 64) w) s ∧
    (∃ t, exec (.read a) s = .next t ∧ t.addr.toNat = a % 64) ∧
    (∃ t, exec (.write a w) s = .next t ∧ t.addr.toNat = a % 64)

/-- R200, the canonical counts of events, delays, samples and clock pulses; the pulses of `receive-word`
are counted from an inactive clock. -/
def Obligations.CanonicalEventCounts : Prop :=
  (∀ s : State, ∃ (t : State) (T : List Event), exec .init s = .next t ∧ t.trace = s.trace ++ T ∧
    T.length = 3 ∧ delaysOf T = 0 ∧ (samplesOf T).length = 0 ∧ pulsesOf s.lines T = 0) ∧
  (∀ s : State, s.sk = false → ∃ (t : State) (T : List Event), exec .rxword s = .next t ∧
    t.trace = s.trace ++ T ∧
    T.length = 81 ∧ delaysOf T = 32 ∧ (samplesOf T).length = 16 ∧ pulsesOf s.lines T = 16) ∧
  (∀ s : State, ∃ (t : State) (T : List Event), exec .ewen s = .next t ∧ t.trace = s.trace ++ T ∧
    T.length = 61 ∧ delaysOf T = 27 ∧ (samplesOf T).length = 0 ∧ pulsesOf s.lines T = 9) ∧
  (∀ s : State, ∃ (t : State) (T : List Event), exec .ewds s = .next t ∧ t.trace = s.trace ++ T ∧
    T.length = 61 ∧ delaysOf T = 27 ∧ (samplesOf T).length = 0 ∧ pulsesOf s.lines T = 9) ∧
  (∀ (a : Nat) (s : State), ∃ (t : State) (T : List Event), exec (.read a) s = .next t ∧
    t.trace = s.trace ++ T ∧
    T.length = 141 ∧ delaysOf T = 59 ∧ (samplesOf T).length = 16 ∧ pulsesOf s.lines T = 25) ∧
  (∀ s : State, ∃ (t : State) (T : List Event), exec .waitrdy s = .next t ∧ t.trace = s.trace ++ T ∧
    delaysOf T = 0 ∧
    match s.firstReady s.params.pollCeiling.toNat with
    | some k => T.length = 3 * k + 7 ∧ (samplesOf T).length = k + 1 ∧ pulsesOf s.lines T = k + 1
    | none => T.length = 3 * s.params.pollCeiling.toNat + 4 ∧
        (samplesOf T).length = s.params.pollCeiling.toNat ∧
        pulsesOf s.lines T = s.params.pollCeiling.toNat) ∧
  (∀ (a : Nat) (w : Word) (s : State), ∃ (t : State) (T : List Event),
    exec (.write a w) s = .next t ∧ t.trace = s.trace ++ T ∧ delaysOf T = 129 ∧
    match s.firstReady s.params.pollCeiling.toNat with
    | some k => T.length = 3 * k + 286 ∧ (samplesOf T).length = k + 1 ∧ pulsesOf s.lines T = k + 44
    | none => T.length = 3 * s.params.pollCeiling.toNat + 283 ∧
        (samplesOf T).length = s.params.pollCeiling.toNat ∧
        pulsesOf s.lines T = s.params.pollCeiling.toNat + 43)

/-! ## The whole machine -/

/-- R38: what reset leaves, for the state R38 gives a value; the pin levels are free values (log 1), and no
response is posted. -/
def Obligations.ResetControlState : Prop :=
  State.reset.step = .idle ∧ State.reset.busy = false ∧ State.reset.stage = .enableFrame ∧
  State.reset.rspValid = false ∧ State.reset.response = none ∧ State.reset.reqReady = true ∧
  State.reset.params.pollCeiling = 40000#16

/-- The invariant holds right after reset. -/
def Obligations.InvariantHoldsAtReset : Prop := State.reset.Inv

/-- Every step of the machine keeps the invariant. -/
def Obligations.StepKeepsInvariant : Prop :=
  ∀ s t : State, s.Inv → step s = .next t → t.Inv

/-- Every step of the sequencer keeps the invariant. -/
def Obligations.SequencerKeepsInvariant : Prop :=
  ∀ s t : State, s.Inv → tick s = .next t → t.Inv

/-- R40: no stuck state and no fault state. The sequencer and the machine always have a next step. -/
def Obligations.MachineNeverStops : Prop :=
  ∀ s : State, s.Inv → (∃ t, tick s = .next t) ∧ (∃ t, step s = .next t)

/-- A step in `IDLE` runs the request on the port; `withFetchWord` puts one there; without a request the
block stays as it is and posts no response (R31, R33; log 4, log 5, log 16). -/
def Obligations.StepRunsRequestedInstruction : Prop :=
  (∀ (s : State) (r : Request) (rest : List Request), s.ready → s.hostQueue = r :: rest →
    step s = exec (decodeRequest r) { s with hostQueue := rest }) ∧
  (∀ (s : State) (nbits w : Nat) (i : Instr), decodeTableWord nbits w = some i →
    step (s.withFetchWord nbits w) = exec i { s with step := .idle, busy := false }) ∧
  (∀ s : State, s.ready → s.hostQueue = [] → step s = .next { s with rspValid := false }) ∧
  (∀ s : State, s.step ≠ .idle → step s = tick s)

/-- R35: every operation ends with the three lines idle, from any starting line state; by the operation
rules and by the sequencer. -/
def Obligations.OperationsEndWithIdleLines : Prop :=
  (∀ (a : Nat) (w : Word) (s : State), ∀ i ∈ [Instr.init, .ewen, .ewds, .read a, .write a w, .waitrdy],
    ∃ t, exec i s = .next t ∧ t.lines = Lines.idle ∧ t.ready) ∧
  (∀ s t : State, s.Inv → s.step ≠ .idle → tick s = .next t → t.step = .idle → t.lines = Lines.idle)

/-- R35 (a): chip-select stays active from the opening of a transaction to its end. -/
def Obligations.ChipSelectStaysActiveInTransaction : Prop :=
  ∀ s t : State, s.Inv → tick s = .next t → s.cs = true → t.cs = false →
    s.step = .i0 ∨ s.step = .e0 ∨ s.step = .w7 ∨ s.step = .w8

/-- R196: in a frame, and wherever else chip-select is active once a transaction is open, `DI` changes only
while the clock is inactive (the opening `DI(0)` of a poll, before its `CS(1)`, apart). -/
def Obligations.DataInChangesOnlyWhileClockLow : Prop :=
  ∀ s t : State, s.Inv → tick s = .next t → s.cs = true → s.step ≠ .w0 → t.di ≠ s.di → s.sk = false

/-- R32, C10: the sequencer, event by event, brings every accepted request to the end state of the operation
rules, with the same pin trace, one event a step after the acceptance. -/
def Obligations.SequencerRefinesOperations : Prop :=
  ∀ (s : State) (r : Request) (rest : List Request), s.ready → s.hostQueue = r :: rest →
    ∃ (n : Nat) (t u : State) (T U : List Event),
      exec (decodeRequest r) { s with hostQueue := rest } = .next t ∧
      runTicks n s = .next u ∧ s.completesIn n ∧
      u.noTrace = t.noTrace ∧ t.trace = s.trace ++ T ∧ u.trace = s.trace ++ U ∧
      pinTrace s.lines T = pinTrace s.lines U ∧ n = U.length + 1

/-- R32: a frame sent group by group and in one pass has the same pin trace from every line state. -/
def Obligations.FrameGroupingIsInvisible : Prop :=
  ∀ (f : Frame) (l : Lines), pinTrace l (groupEvents f) = pinTrace l (onePassEvents f)

/-- R10: the pin trace holds no redundant drive, so taking it twice changes nothing, and it leads to the
same line state and the same samples and delays. -/
def Obligations.PinTraceKeepsWhatPinsShow : Prop :=
  ∀ (l : Lines) (t : List Event),
    pinTrace l (pinTrace l t) = pinTrace l t ∧ l.afterAll (pinTrace l t) = l.afterAll t ∧
    samplesOf (pinTrace l t) = samplesOf t ∧ delaysOf (pinTrace l t) = delaysOf t ∧
    bitsTaken l (pinTrace l t) = bitsTaken l t

/-- R200, the sequencer's counts: one step for the acceptance and one per event. -/
def Obligations.SequencerEventCounts : Prop :=
  ∀ (s : State) (r : Request) (rest : List Request), s.ready → s.hostQueue = r :: rest →
    match decodeRequest r with
    | .init => s.completesIn (1 + 3)
    | .ewen => s.completesIn (1 + 58)
    | .ewds => s.completesIn (1 + 58)
    | .read _ => s.completesIn (1 + 139)
    | .waitrdy =>
      match s.firstReady s.params.pollCeiling.toNat with
      | some k => s.completesIn (1 + (3 * k + 7))
      | none => s.completesIn (1 + (3 * s.params.pollCeiling.toNat + 4))
    | .write _ _ =>
      match s.firstReady s.params.pollCeiling.toNat with
      | some k => s.completesIn (1 + (3 * k + 277))
      | none => s.completesIn (1 + (3 * s.params.pollCeiling.toNat + 274))
    | _ => s.completesIn 1

/-- R40, R199: every operation in flight completes within the longest operation's number of events,
whatever the device answers. -/
def Obligations.OperationsAlwaysComplete : Prop :=
  ∀ s : State, s.Inv → ∃ (n : Nat) (u : State),
    n ≤ 3 * s.params.pollCeiling.toNat + 274 ∧ runTicks n s = .next u ∧ u.step = .idle

/-- R34: an operation depends on its operands, the samples it draws and `POLL_CEILING`, and on nothing
else in the state. -/
def Obligations.OperationsIgnoreLeftOverState : Prop :=
  ∀ (i : Instr) (s1 s2 : State), i.requestable = true →
    s1.params.pollCeiling = s2.params.pollCeiling → (∀ k, s1.answer k = s2.answer k) →
    ∃ (t1 t2 : State) (T : List Event), exec i s1 = .next t1 ∧ exec i s2 = .next t2 ∧
      t1.trace = s1.trace ++ T ∧ t2.trace = s2.trace ++ T ∧
      t1.ok = t2.ok ∧ t1.response = t2.response

/-- R24: only `read` writes `RDATA`, at its completion; by the operation rules and by the sequencer. -/
def Obligations.OnlyReadWritesReadData : Prop :=
  (∀ (i : Instr) (s t : State), (∀ a, i ≠ .read a) → exec i s = .next t → t.rdata = s.rdata) ∧
  (∀ s t : State, tick s = .next t → t.rdata ≠ s.rdata →
    s.step = .e1 ∧ s.opr = .read ∧ t.step = .idle ∧ t.rspValid = true)

/-- R23, R70: the operand latches change only when a request is accepted. -/
def Obligations.LatchesHoldUntilNextRequest : Prop :=
  ∀ s t : State, s.step ≠ .idle → tick s = .next t →
    t.opr = s.opr ∧ t.addr = s.addr ∧ t.wdata = s.wdata ∧ t.hostQueue = s.hostQueue

/-- R29: `OK` is written only at a completion, `RDY` only by the last step of a poll, and `BUSY` is set by
acceptance and cleared by completion. -/
def Obligations.FlagsAreWrittenOnlyWhereSaid : Prop :=
  ∀ s t : State, tick s = .next t →
    (t.ok ≠ s.ok → t.rspValid = true) ∧
    (t.rdy ≠ s.rdy → s.step = .w7 ∨ s.step = .w8) ∧
    (s.busy = false → t.busy = true → s.step = .idle ∧ s.hostQueue ≠ []) ∧
    (s.busy = true → t.busy = false → t.rspValid = true ∧ t.step = .idle) ∧
    (s.Inv → (t.busy = true ↔ t.step ≠ .idle)) ∧
    t.reqReady = !t.busy

/-- R33: a running operation posts its response in the step that completes it and in no other; the response
of a `read` carries the word, and no other does (R24). -/
def Obligations.ResponseIsPostedAtCompletion : Prop :=
  (∀ s t : State, s.step ≠ .idle → tick s = .next t → (t.rspValid = true ↔ t.step = .idle)) ∧
  (∀ (i : Instr) (s : State), i.requestable = true → ∃ t, exec i s = .next t ∧
    t.response = some
      { ok := t.ok
        data := match i with
          | .read _ => some t.rdata
          | _ => none })

/-- R33, R39: no step and no instruction changes a parameter. -/
def Obligations.ParametersAreConstants : Prop :=
  (∀ (i : Instr) (s t : State), exec i s = .next t → t.params = s.params) ∧
  (∀ s t : State, tick s = .next t → t.params = s.params) ∧
  (∀ s t : State, step s = .next t → t.params = s.params)

/-- R40, R66: a run. The host's requests are taken in order, one operation a step, until the response to the
last has been posted and the block is quiescent. -/
def Obligations.RunAnswersEveryRequest : Prop :=
  ∀ s : State, s.ready → ∃ t : State,
    Host.Core.run Sys2Proof.core s.hostQueue.length s = .next t ∧
    t.ready ∧ t.hostQueue = [] ∧ (s.hostQueue ≠ [] → t.rspValid = true)

/-! ## The clocked realisation -/

/-- R190: a cycle of the clocked realisation is a step of R31 outside `DLY`; a `DLY` step takes
`DELAY_CYCLES` cycles; `rst` puts the control state at its reset values. How `DLYCNT` is loaded is log 17. -/
def Obligations.ClockCyclesOfOneStep : Prop :=
  (∀ s t : State, s.step.isDelay = false → tick s = .next t → clkStep false s = .next t.loadDly) ∧
  (∀ s t : State, s.step.isDelay = true → 1 ≤ s.params.delayCycles → s.dlycnt = s.params.delayCycles →
    tick s = .next t → runClk s.params.delayCycles s = .next t.loadDly) ∧
  (∀ s : State, clkStep true s = .next { s with
    step := .idle, busy := false, stage := .enableFrame, rspValid := false })

/-- R190, R200: the clocked realisation does what the sequencer does, in one cycle per step that is no `DLY`
and `DELAY_CYCLES` cycles per `DLY`. -/
def Obligations.ClockedRealisationRefinesSequencer : Prop :=
  ∀ (n : Nat) (s t : State) (U : List Event), 1 ≤ s.params.delayCycles →
    s.dlycnt = (if s.step.isDelay then s.params.delayCycles else 0) →
    runTicks n s = .next t → t.trace = s.trace ++ U →
    runClk ((n - delaysOf U) + delaysOf U * s.params.delayCycles) s = .next t.loadDly

/-! ## Against the reference device (tests only; R150, R153) -/

/-- R154: ENV-REF takes an enable frame and a disable frame as such, and its words stay. -/
def Obligations.DeviceObeysControlFrames : Prop :=
  ∀ d : EnvRef, d.seesIdle →
    (∃ d', d.watch Lines.idle (transactionEvents .ewen) = some d' ∧ d'.wen = true ∧ d'.mem = d.mem ∧ d'.seesIdle) ∧
    (∃ d', d.watch Lines.idle (transactionEvents .ewds) = some d' ∧ d'.wen = false ∧ d'.mem = d.mem ∧ d'.seesIdle)

/-- R154, R157, C2: a bare write frame that reaches ENV-REF write-protected changes no word, leaves it
write-protected and starts no busy cycle. -/
def Obligations.UnprotectedWriteIsRejected : Prop :=
  ∀ (d : EnvRef) (a : Addr) (w : Word), d.seesIdle → d.wen = false →
    ∃ d', d.watch Lines.idle (transactionEvents (.write a w)) = some d' ∧ d'.mem = d.mem ∧ d'.wen = false ∧
      d'.status = .none

/-- R154: against ENV-REF a `read` returns the addressed word, and changes no word and no enable condition. -/
def Obligations.ReadReturnsDeviceWord : Prop :=
  ∀ (d d' : EnvRef) (a : Nat) (s t : State) (T : List Event),
    s.lines = Lines.idle → d.seesIdle → exec (.read a) s = .next t → t.trace = s.trace ++ T →
    d.watch s.lines T = some d' →
    t.ok = true ∧ t.rdata = d.memRead (BitVec.ofNat 6 (a % 64)) ∧ d'.mem = d.mem ∧ d'.wen = d.wen ∧ d'.seesIdle

/-- R157: against ENV-REF, ready before the ceiling, `write(a, w)` returns 1 and a following `read(a)`
returns `(1, w)`; the other words keep their values, and the device is left write-protected. -/
def Obligations.WriteThenReadReturnsTheWord : Prop :=
  ∀ (d d1 d2 : EnvRef) (a n : Nat) (w : Word) (s t1 t2 : State) (T1 T2 : List Event),
    s.lines = Lines.idle → d.seesIdle → d.busyPolls = some n → n < s.params.pollCeiling.toNat →
    exec (.write a w) s = .next t1 → t1.trace = s.trace ++ T1 → d.watch s.lines T1 = some d1 →
    exec (.read a) t1 = .next t2 → t2.trace = t1.trace ++ T2 → d1.watch t1.lines T2 = some d2 →
    t1.ok = true ∧ t2.ok = true ∧ t2.rdata = w ∧
    d1.mem = (d.memWrite (BitVec.ofNat 6 (a % 64)) w).mem ∧ d2.mem = d1.mem ∧
    d1.wen = false ∧ d2.wen = false

/-- R157: against ENV-REF still busy at the ceiling, `write` returns 0, and the disable frame is sent all the
same. -/
def Obligations.WriteTimesOutOnBusyDevice : Prop :=
  ∀ (d d' : EnvRef) (a : Nat) (w : Word) (s t : State) (T : List Event),
    s.lines = Lines.idle → d.seesIdle →
    (d.busyPolls = none ∨ ∃ n, d.busyPolls = some n ∧ s.params.pollCeiling.toNat ≤ n) →
    exec (.write a w) s = .next t → t.trace = s.trace ++ T → d.watch s.lines T = some d' →
    t.ok = false ∧ d'.wen = false
end

