-- ==== Sys2Proof/Laws/State.lean ====
section
/-! SUPPORT. One lemma per field per update of State: what each named update writes and what it leaves. -/

namespace Sys2Proof.Machine.State

variable (s : State)

@[simp] theorem driveCs_step (l : Bool) : (s.driveCs l).step = s.step := rfl
@[simp] theorem driveCs_busy (l : Bool) : (s.driveCs l).busy = s.busy := rfl
@[simp] theorem driveCs_stage (l : Bool) : (s.driveCs l).stage = s.stage := rfl
@[simp] theorem driveCs_cs (l : Bool) : (s.driveCs l).cs = l := rfl
@[simp] theorem driveCs_sk (l : Bool) : (s.driveCs l).sk = s.sk := rfl
@[simp] theorem driveCs_di (l : Bool) : (s.driveCs l).di = s.di := rfl
@[simp] theorem driveCs_opr (l : Bool) : (s.driveCs l).opr = s.opr := rfl
@[simp] theorem driveCs_addr (l : Bool) : (s.driveCs l).addr = s.addr := rfl
@[simp] theorem driveCs_wdata (l : Bool) : (s.driveCs l).wdata = s.wdata := rfl
@[simp] theorem driveCs_rdata (l : Bool) : (s.driveCs l).rdata = s.rdata := rfl
@[simp] theorem driveCs_ok (l : Bool) : (s.driveCs l).ok = s.ok := rfl
@[simp] theorem driveCs_rdy (l : Bool) : (s.driveCs l).rdy = s.rdy := rfl
@[simp] theorem driveCs_txsr (l : Bool) : (s.driveCs l).txsr = s.txsr := rfl
@[simp] theorem driveCs_txcnt (l : Bool) : (s.driveCs l).txcnt = s.txcnt := rfl
@[simp] theorem driveCs_rxacc (l : Bool) : (s.driveCs l).rxacc = s.rxacc := rfl
@[simp] theorem driveCs_rxcnt (l : Bool) : (s.driveCs l).rxcnt = s.rxcnt := rfl
@[simp] theorem driveCs_pollcnt (l : Bool) : (s.driveCs l).pollcnt = s.pollcnt := rfl
@[simp] theorem driveCs_dlycnt (l : Bool) : (s.driveCs l).dlycnt = s.dlycnt := rfl
@[simp] theorem driveCs_rspValid (l : Bool) : (s.driveCs l).rspValid = s.rspValid := rfl
@[simp] theorem driveCs_params (l : Bool) : (s.driveCs l).params = s.params := rfl
@[simp] theorem driveCs_hostQueue (l : Bool) : (s.driveCs l).hostQueue = s.hostQueue := rfl
@[simp] theorem driveCs_doAnswers (l : Bool) : (s.driveCs l).doAnswers = s.doAnswers := rfl
@[simp] theorem driveCs_smpCount (l : Bool) : (s.driveCs l).smpCount = s.smpCount := rfl
@[simp] theorem driveCs_trace (l : Bool) : (s.driveCs l).trace = s.trace ++ [.cs l] := rfl

@[simp] theorem driveSk_step (l : Bool) : (s.driveSk l).step = s.step := rfl
@[simp] theorem driveSk_busy (l : Bool) : (s.driveSk l).busy = s.busy := rfl
@[simp] theorem driveSk_stage (l : Bool) : (s.driveSk l).stage = s.stage := rfl
@[simp] theorem driveSk_cs (l : Bool) : (s.driveSk l).cs = s.cs := rfl
@[simp] theorem driveSk_sk (l : Bool) : (s.driveSk l).sk = l := rfl
@[simp] theorem driveSk_di (l : Bool) : (s.driveSk l).di = s.di := rfl
@[simp] theorem driveSk_opr (l : Bool) : (s.driveSk l).opr = s.opr := rfl
@[simp] theorem driveSk_addr (l : Bool) : (s.driveSk l).addr = s.addr := rfl
@[simp] theorem driveSk_wdata (l : Bool) : (s.driveSk l).wdata = s.wdata := rfl
@[simp] theorem driveSk_rdata (l : Bool) : (s.driveSk l).rdata = s.rdata := rfl
@[simp] theorem driveSk_ok (l : Bool) : (s.driveSk l).ok = s.ok := rfl
@[simp] theorem driveSk_rdy (l : Bool) : (s.driveSk l).rdy = s.rdy := rfl
@[simp] theorem driveSk_txsr (l : Bool) : (s.driveSk l).txsr = s.txsr := rfl
@[simp] theorem driveSk_txcnt (l : Bool) : (s.driveSk l).txcnt = s.txcnt := rfl
@[simp] theorem driveSk_rxacc (l : Bool) : (s.driveSk l).rxacc = s.rxacc := rfl
@[simp] theorem driveSk_rxcnt (l : Bool) : (s.driveSk l).rxcnt = s.rxcnt := rfl
@[simp] theorem driveSk_pollcnt (l : Bool) : (s.driveSk l).pollcnt = s.pollcnt := rfl
@[simp] theorem driveSk_dlycnt (l : Bool) : (s.driveSk l).dlycnt = s.dlycnt := rfl
@[simp] theorem driveSk_rspValid (l : Bool) : (s.driveSk l).rspValid = s.rspValid := rfl
@[simp] theorem driveSk_params (l : Bool) : (s.driveSk l).params = s.params := rfl
@[simp] theorem driveSk_hostQueue (l : Bool) : (s.driveSk l).hostQueue = s.hostQueue := rfl
@[simp] theorem driveSk_doAnswers (l : Bool) : (s.driveSk l).doAnswers = s.doAnswers := rfl
@[simp] theorem driveSk_smpCount (l : Bool) : (s.driveSk l).smpCount = s.smpCount := rfl
@[simp] theorem driveSk_trace (l : Bool) : (s.driveSk l).trace = s.trace ++ [.sk l] := rfl

@[simp] theorem driveDi_step (l : Bool) : (s.driveDi l).step = s.step := rfl
@[simp] theorem driveDi_busy (l : Bool) : (s.driveDi l).busy = s.busy := rfl
@[simp] theorem driveDi_stage (l : Bool) : (s.driveDi l).stage = s.stage := rfl
@[simp] theorem driveDi_cs (l : Bool) : (s.driveDi l).cs = s.cs := rfl
@[simp] theorem driveDi_sk (l : Bool) : (s.driveDi l).sk = s.sk := rfl
@[simp] theorem driveDi_di (l : Bool) : (s.driveDi l).di = l := rfl
@[simp] theorem driveDi_opr (l : Bool) : (s.driveDi l).opr = s.opr := rfl
@[simp] theorem driveDi_addr (l : Bool) : (s.driveDi l).addr = s.addr := rfl
@[simp] theorem driveDi_wdata (l : Bool) : (s.driveDi l).wdata = s.wdata := rfl
@[simp] theorem driveDi_rdata (l : Bool) : (s.driveDi l).rdata = s.rdata := rfl
@[simp] theorem driveDi_ok (l : Bool) : (s.driveDi l).ok = s.ok := rfl
@[simp] theorem driveDi_rdy (l : Bool) : (s.driveDi l).rdy = s.rdy := rfl
@[simp] theorem driveDi_txsr (l : Bool) : (s.driveDi l).txsr = s.txsr := rfl
@[simp] theorem driveDi_txcnt (l : Bool) : (s.driveDi l).txcnt = s.txcnt := rfl
@[simp] theorem driveDi_rxacc (l : Bool) : (s.driveDi l).rxacc = s.rxacc := rfl
@[simp] theorem driveDi_rxcnt (l : Bool) : (s.driveDi l).rxcnt = s.rxcnt := rfl
@[simp] theorem driveDi_pollcnt (l : Bool) : (s.driveDi l).pollcnt = s.pollcnt := rfl
@[simp] theorem driveDi_dlycnt (l : Bool) : (s.driveDi l).dlycnt = s.dlycnt := rfl
@[simp] theorem driveDi_rspValid (l : Bool) : (s.driveDi l).rspValid = s.rspValid := rfl
@[simp] theorem driveDi_params (l : Bool) : (s.driveDi l).params = s.params := rfl
@[simp] theorem driveDi_hostQueue (l : Bool) : (s.driveDi l).hostQueue = s.hostQueue := rfl
@[simp] theorem driveDi_doAnswers (l : Bool) : (s.driveDi l).doAnswers = s.doAnswers := rfl
@[simp] theorem driveDi_smpCount (l : Bool) : (s.driveDi l).smpCount = s.smpCount := rfl
@[simp] theorem driveDi_trace (l : Bool) : (s.driveDi l).trace = s.trace ++ [.di l] := rfl

@[simp] theorem delay_step : s.delay.step = s.step := rfl
@[simp] theorem delay_busy : s.delay.busy = s.busy := rfl
@[simp] theorem delay_stage : s.delay.stage = s.stage := rfl
@[simp] theorem delay_cs : s.delay.cs = s.cs := rfl
@[simp] theorem delay_sk : s.delay.sk = s.sk := rfl
@[simp] theorem delay_di : s.delay.di = s.di := rfl
@[simp] theorem delay_opr : s.delay.opr = s.opr := rfl
@[simp] theorem delay_addr : s.delay.addr = s.addr := rfl
@[simp] theorem delay_wdata : s.delay.wdata = s.wdata := rfl
@[simp] theorem delay_rdata : s.delay.rdata = s.rdata := rfl
@[simp] theorem delay_ok : s.delay.ok = s.ok := rfl
@[simp] theorem delay_rdy : s.delay.rdy = s.rdy := rfl
@[simp] theorem delay_txsr : s.delay.txsr = s.txsr := rfl
@[simp] theorem delay_txcnt : s.delay.txcnt = s.txcnt := rfl
@[simp] theorem delay_rxacc : s.delay.rxacc = s.rxacc := rfl
@[simp] theorem delay_rxcnt : s.delay.rxcnt = s.rxcnt := rfl
@[simp] theorem delay_pollcnt : s.delay.pollcnt = s.pollcnt := rfl
@[simp] theorem delay_dlycnt : s.delay.dlycnt = s.dlycnt := rfl
@[simp] theorem delay_rspValid : s.delay.rspValid = s.rspValid := rfl
@[simp] theorem delay_params : s.delay.params = s.params := rfl
@[simp] theorem delay_hostQueue : s.delay.hostQueue = s.hostQueue := rfl
@[simp] theorem delay_doAnswers : s.delay.doAnswers = s.doAnswers := rfl
@[simp] theorem delay_smpCount : s.delay.smpCount = s.smpCount := rfl
@[simp] theorem delay_trace : s.delay.trace = s.trace ++ [.dly] := rfl

@[simp] theorem sampled_step : s.sampled.step = s.step := rfl
@[simp] theorem sampled_busy : s.sampled.busy = s.busy := rfl
@[simp] theorem sampled_stage : s.sampled.stage = s.stage := rfl
@[simp] theorem sampled_cs : s.sampled.cs = s.cs := rfl
@[simp] theorem sampled_sk : s.sampled.sk = s.sk := rfl
@[simp] theorem sampled_di : s.sampled.di = s.di := rfl
@[simp] theorem sampled_opr : s.sampled.opr = s.opr := rfl
@[simp] theorem sampled_addr : s.sampled.addr = s.addr := rfl
@[simp] theorem sampled_wdata : s.sampled.wdata = s.wdata := rfl
@[simp] theorem sampled_rdata : s.sampled.rdata = s.rdata := rfl
@[simp] theorem sampled_ok : s.sampled.ok = s.ok := rfl
@[simp] theorem sampled_rdy : s.sampled.rdy = s.rdy := rfl
@[simp] theorem sampled_txsr : s.sampled.txsr = s.txsr := rfl
@[simp] theorem sampled_txcnt : s.sampled.txcnt = s.txcnt := rfl
@[simp] theorem sampled_rxacc : s.sampled.rxacc = s.rxacc := rfl
@[simp] theorem sampled_rxcnt : s.sampled.rxcnt = s.rxcnt := rfl
@[simp] theorem sampled_pollcnt : s.sampled.pollcnt = s.pollcnt := rfl
@[simp] theorem sampled_dlycnt : s.sampled.dlycnt = s.dlycnt := rfl
@[simp] theorem sampled_rspValid : s.sampled.rspValid = s.rspValid := rfl
@[simp] theorem sampled_params : s.sampled.params = s.params := rfl
@[simp] theorem sampled_hostQueue : s.sampled.hostQueue = s.hostQueue := rfl
@[simp] theorem sampled_doAnswers : s.sampled.doAnswers = s.doAnswers.drop 1 := rfl
@[simp] theorem sampled_smpCount : s.sampled.smpCount = s.smpCount + 1 := rfl
@[simp] theorem sampled_trace : s.sampled.trace = s.trace ++ [.smp s.doLevel] := rfl

@[simp] theorem goto_step (x : SeqStep) : (s.goto x).step = x := rfl
@[simp] theorem goto_busy (x : SeqStep) : (s.goto x).busy = s.busy := rfl
@[simp] theorem goto_stage (x : SeqStep) : (s.goto x).stage = s.stage := rfl
@[simp] theorem goto_cs (x : SeqStep) : (s.goto x).cs = s.cs := rfl
@[simp] theorem goto_sk (x : SeqStep) : (s.goto x).sk = s.sk := rfl
@[simp] theorem goto_di (x : SeqStep) : (s.goto x).di = s.di := rfl
@[simp] theorem goto_opr (x : SeqStep) : (s.goto x).opr = s.opr := rfl
@[simp] theorem goto_addr (x : SeqStep) : (s.goto x).addr = s.addr := rfl
@[simp] theorem goto_wdata (x : SeqStep) : (s.goto x).wdata = s.wdata := rfl
@[simp] theorem goto_rdata (x : SeqStep) : (s.goto x).rdata = s.rdata := rfl
@[simp] theorem goto_ok (x : SeqStep) : (s.goto x).ok = s.ok := rfl
@[simp] theorem goto_rdy (x : SeqStep) : (s.goto x).rdy = s.rdy := rfl
@[simp] theorem goto_txsr (x : SeqStep) : (s.goto x).txsr = s.txsr := rfl
@[simp] theorem goto_txcnt (x : SeqStep) : (s.goto x).txcnt = s.txcnt := rfl
@[simp] theorem goto_rxacc (x : SeqStep) : (s.goto x).rxacc = s.rxacc := rfl
@[simp] theorem goto_rxcnt (x : SeqStep) : (s.goto x).rxcnt = s.rxcnt := rfl
@[simp] theorem goto_pollcnt (x : SeqStep) : (s.goto x).pollcnt = s.pollcnt := rfl
@[simp] theorem goto_dlycnt (x : SeqStep) : (s.goto x).dlycnt = s.dlycnt := rfl
@[simp] theorem goto_rspValid (x : SeqStep) : (s.goto x).rspValid = s.rspValid := rfl
@[simp] theorem goto_params (x : SeqStep) : (s.goto x).params = s.params := rfl
@[simp] theorem goto_hostQueue (x : SeqStep) : (s.goto x).hostQueue = s.hostQueue := rfl
@[simp] theorem goto_doAnswers (x : SeqStep) : (s.goto x).doAnswers = s.doAnswers := rfl
@[simp] theorem goto_smpCount (x : SeqStep) : (s.goto x).smpCount = s.smpCount := rfl
@[simp] theorem goto_trace (x : SeqStep) : (s.goto x).trace = s.trace := rfl

@[simp] theorem setStage_step (x : Stage) : (s.setStage x).step = s.step := rfl
@[simp] theorem setStage_busy (x : Stage) : (s.setStage x).busy = s.busy := rfl
@[simp] theorem setStage_stage (x : Stage) : (s.setStage x).stage = x := rfl
@[simp] theorem setStage_cs (x : Stage) : (s.setStage x).cs = s.cs := rfl
@[simp] theorem setStage_sk (x : Stage) : (s.setStage x).sk = s.sk := rfl
@[simp] theorem setStage_di (x : Stage) : (s.setStage x).di = s.di := rfl
@[simp] theorem setStage_opr (x : Stage) : (s.setStage x).opr = s.opr := rfl
@[simp] theorem setStage_addr (x : Stage) : (s.setStage x).addr = s.addr := rfl
@[simp] theorem setStage_wdata (x : Stage) : (s.setStage x).wdata = s.wdata := rfl
@[simp] theorem setStage_rdata (x : Stage) : (s.setStage x).rdata = s.rdata := rfl
@[simp] theorem setStage_ok (x : Stage) : (s.setStage x).ok = s.ok := rfl
@[simp] theorem setStage_rdy (x : Stage) : (s.setStage x).rdy = s.rdy := rfl
@[simp] theorem setStage_txsr (x : Stage) : (s.setStage x).txsr = s.txsr := rfl
@[simp] theorem setStage_txcnt (x : Stage) : (s.setStage x).txcnt = s.txcnt := rfl
@[simp] theorem setStage_rxacc (x : Stage) : (s.setStage x).rxacc = s.rxacc := rfl
@[simp] theorem setStage_rxcnt (x : Stage) : (s.setStage x).rxcnt = s.rxcnt := rfl
@[simp] theorem setStage_pollcnt (x : Stage) : (s.setStage x).pollcnt = s.pollcnt := rfl
@[simp] theorem setStage_dlycnt (x : Stage) : (s.setStage x).dlycnt = s.dlycnt := rfl
@[simp] theorem setStage_rspValid (x : Stage) : (s.setStage x).rspValid = s.rspValid := rfl
@[simp] theorem setStage_params (x : Stage) : (s.setStage x).params = s.params := rfl
@[simp] theorem setStage_hostQueue (x : Stage) : (s.setStage x).hostQueue = s.hostQueue := rfl
@[simp] theorem setStage_doAnswers (x : Stage) : (s.setStage x).doAnswers = s.doAnswers := rfl
@[simp] theorem setStage_smpCount (x : Stage) : (s.setStage x).smpCount = s.smpCount := rfl
@[simp] theorem setStage_trace (x : Stage) : (s.setStage x).trace = s.trace := rfl

@[simp] theorem quiet_step : s.quiet.step = s.step := rfl
@[simp] theorem quiet_busy : s.quiet.busy = s.busy := rfl
@[simp] theorem quiet_stage : s.quiet.stage = s.stage := rfl
@[simp] theorem quiet_cs : s.quiet.cs = s.cs := rfl
@[simp] theorem quiet_sk : s.quiet.sk = s.sk := rfl
@[simp] theorem quiet_di : s.quiet.di = s.di := rfl
@[simp] theorem quiet_opr : s.quiet.opr = s.opr := rfl
@[simp] theorem quiet_addr : s.quiet.addr = s.addr := rfl
@[simp] theorem quiet_wdata : s.quiet.wdata = s.wdata := rfl
@[simp] theorem quiet_rdata : s.quiet.rdata = s.rdata := rfl
@[simp] theorem quiet_ok : s.quiet.ok = s.ok := rfl
@[simp] theorem quiet_rdy : s.quiet.rdy = s.rdy := rfl
@[simp] theorem quiet_txsr : s.quiet.txsr = s.txsr := rfl
@[simp] theorem quiet_txcnt : s.quiet.txcnt = s.txcnt := rfl
@[simp] theorem quiet_rxacc : s.quiet.rxacc = s.rxacc := rfl
@[simp] theorem quiet_rxcnt : s.quiet.rxcnt = s.rxcnt := rfl
@[simp] theorem quiet_pollcnt : s.quiet.pollcnt = s.pollcnt := rfl
@[simp] theorem quiet_dlycnt : s.quiet.dlycnt = s.dlycnt := rfl
@[simp] theorem quiet_rspValid : s.quiet.rspValid = false := rfl
@[simp] theorem quiet_params : s.quiet.params = s.params := rfl
@[simp] theorem quiet_hostQueue : s.quiet.hostQueue = s.hostQueue := rfl
@[simp] theorem quiet_doAnswers : s.quiet.doAnswers = s.doAnswers := rfl
@[simp] theorem quiet_smpCount : s.quiet.smpCount = s.smpCount := rfl
@[simp] theorem quiet_trace : s.quiet.trace = s.trace := rfl

@[simp] theorem offer_step (r : Request) : (s.offer r).step = .idle := rfl
@[simp] theorem offer_busy (r : Request) : (s.offer r).busy = false := rfl
@[simp] theorem offer_stage (r : Request) : (s.offer r).stage = s.stage := rfl
@[simp] theorem offer_cs (r : Request) : (s.offer r).cs = s.cs := rfl
@[simp] theorem offer_sk (r : Request) : (s.offer r).sk = s.sk := rfl
@[simp] theorem offer_di (r : Request) : (s.offer r).di = s.di := rfl
@[simp] theorem offer_opr (r : Request) : (s.offer r).opr = s.opr := rfl
@[simp] theorem offer_addr (r : Request) : (s.offer r).addr = s.addr := rfl
@[simp] theorem offer_wdata (r : Request) : (s.offer r).wdata = s.wdata := rfl
@[simp] theorem offer_rdata (r : Request) : (s.offer r).rdata = s.rdata := rfl
@[simp] theorem offer_ok (r : Request) : (s.offer r).ok = s.ok := rfl
@[simp] theorem offer_rdy (r : Request) : (s.offer r).rdy = s.rdy := rfl
@[simp] theorem offer_txsr (r : Request) : (s.offer r).txsr = s.txsr := rfl
@[simp] theorem offer_txcnt (r : Request) : (s.offer r).txcnt = s.txcnt := rfl
@[simp] theorem offer_rxacc (r : Request) : (s.offer r).rxacc = s.rxacc := rfl
@[simp] theorem offer_rxcnt (r : Request) : (s.offer r).rxcnt = s.rxcnt := rfl
@[simp] theorem offer_pollcnt (r : Request) : (s.offer r).pollcnt = s.pollcnt := rfl
@[simp] theorem offer_dlycnt (r : Request) : (s.offer r).dlycnt = s.dlycnt := rfl
@[simp] theorem offer_rspValid (r : Request) : (s.offer r).rspValid = s.rspValid := rfl
@[simp] theorem offer_params (r : Request) : (s.offer r).params = s.params := rfl
@[simp] theorem offer_hostQueue (r : Request) : (s.offer r).hostQueue = r :: s.hostQueue := rfl
@[simp] theorem offer_doAnswers (r : Request) : (s.offer r).doAnswers = s.doAnswers := rfl
@[simp] theorem offer_smpCount (r : Request) : (s.offer r).smpCount = s.smpCount := rfl
@[simp] theorem offer_trace (r : Request) : (s.offer r).trace = s.trace := rfl

@[simp] theorem latchAddr_step (a : Nat) : (s.latchAddr a).step = s.step := rfl
@[simp] theorem latchAddr_busy (a : Nat) : (s.latchAddr a).busy = s.busy := rfl
@[simp] theorem latchAddr_stage (a : Nat) : (s.latchAddr a).stage = s.stage := rfl
@[simp] theorem latchAddr_cs (a : Nat) : (s.latchAddr a).cs = s.cs := rfl
@[simp] theorem latchAddr_sk (a : Nat) : (s.latchAddr a).sk = s.sk := rfl
@[simp] theorem latchAddr_di (a : Nat) : (s.latchAddr a).di = s.di := rfl
@[simp] theorem latchAddr_opr (a : Nat) : (s.latchAddr a).opr = s.opr := rfl
@[simp] theorem latchAddr_addr (a : Nat) : (s.latchAddr a).addr = trunc6 a := rfl
@[simp] theorem latchAddr_wdata (a : Nat) : (s.latchAddr a).wdata = s.wdata := rfl
@[simp] theorem latchAddr_rdata (a : Nat) : (s.latchAddr a).rdata = s.rdata := rfl
@[simp] theorem latchAddr_ok (a : Nat) : (s.latchAddr a).ok = s.ok := rfl
@[simp] theorem latchAddr_rdy (a : Nat) : (s.latchAddr a).rdy = s.rdy := rfl
@[simp] theorem latchAddr_txsr (a : Nat) : (s.latchAddr a).txsr = s.txsr := rfl
@[simp] theorem latchAddr_txcnt (a : Nat) : (s.latchAddr a).txcnt = s.txcnt := rfl
@[simp] theorem latchAddr_rxacc (a : Nat) : (s.latchAddr a).rxacc = s.rxacc := rfl
@[simp] theorem latchAddr_rxcnt (a : Nat) : (s.latchAddr a).rxcnt = s.rxcnt := rfl
@[simp] theorem latchAddr_pollcnt (a : Nat) : (s.latchAddr a).pollcnt = s.pollcnt := rfl
@[simp] theorem latchAddr_dlycnt (a : Nat) : (s.latchAddr a).dlycnt = s.dlycnt := rfl
@[simp] theorem latchAddr_rspValid (a : Nat) : (s.latchAddr a).rspValid = s.rspValid := rfl
@[simp] theorem latchAddr_params (a : Nat) : (s.latchAddr a).params = s.params := rfl
@[simp] theorem latchAddr_hostQueue (a : Nat) : (s.latchAddr a).hostQueue = s.hostQueue := rfl
@[simp] theorem latchAddr_doAnswers (a : Nat) : (s.latchAddr a).doAnswers = s.doAnswers := rfl
@[simp] theorem latchAddr_smpCount (a : Nat) : (s.latchAddr a).smpCount = s.smpCount := rfl
@[simp] theorem latchAddr_trace (a : Nat) : (s.latchAddr a).trace = s.trace := rfl

@[simp] theorem latchWord_step (w : Word) : (s.latchWord w).step = s.step := rfl
@[simp] theorem latchWord_busy (w : Word) : (s.latchWord w).busy = s.busy := rfl
@[simp] theorem latchWord_stage (w : Word) : (s.latchWord w).stage = s.stage := rfl
@[simp] theorem latchWord_cs (w : Word) : (s.latchWord w).cs = s.cs := rfl
@[simp] theorem latchWord_sk (w : Word) : (s.latchWord w).sk = s.sk := rfl
@[simp] theorem latchWord_di (w : Word) : (s.latchWord w).di = s.di := rfl
@[simp] theorem latchWord_opr (w : Word) : (s.latchWord w).opr = s.opr := rfl
@[simp] theorem latchWord_addr (w : Word) : (s.latchWord w).addr = s.addr := rfl
@[simp] theorem latchWord_wdata (w : Word) : (s.latchWord w).wdata = w := rfl
@[simp] theorem latchWord_rdata (w : Word) : (s.latchWord w).rdata = s.rdata := rfl
@[simp] theorem latchWord_ok (w : Word) : (s.latchWord w).ok = s.ok := rfl
@[simp] theorem latchWord_rdy (w : Word) : (s.latchWord w).rdy = s.rdy := rfl
@[simp] theorem latchWord_txsr (w : Word) : (s.latchWord w).txsr = s.txsr := rfl
@[simp] theorem latchWord_txcnt (w : Word) : (s.latchWord w).txcnt = s.txcnt := rfl
@[simp] theorem latchWord_rxacc (w : Word) : (s.latchWord w).rxacc = s.rxacc := rfl
@[simp] theorem latchWord_rxcnt (w : Word) : (s.latchWord w).rxcnt = s.rxcnt := rfl
@[simp] theorem latchWord_pollcnt (w : Word) : (s.latchWord w).pollcnt = s.pollcnt := rfl
@[simp] theorem latchWord_dlycnt (w : Word) : (s.latchWord w).dlycnt = s.dlycnt := rfl
@[simp] theorem latchWord_rspValid (w : Word) : (s.latchWord w).rspValid = s.rspValid := rfl
@[simp] theorem latchWord_params (w : Word) : (s.latchWord w).params = s.params := rfl
@[simp] theorem latchWord_hostQueue (w : Word) : (s.latchWord w).hostQueue = s.hostQueue := rfl
@[simp] theorem latchWord_doAnswers (w : Word) : (s.latchWord w).doAnswers = s.doAnswers := rfl
@[simp] theorem latchWord_smpCount (w : Word) : (s.latchWord w).smpCount = s.smpCount := rfl
@[simp] theorem latchWord_trace (w : Word) : (s.latchWord w).trace = s.trace := rfl

@[simp] theorem loadFrame_step (f : Frame) : (s.loadFrame f).step = s.step := rfl
@[simp] theorem loadFrame_busy (f : Frame) : (s.loadFrame f).busy = s.busy := rfl
@[simp] theorem loadFrame_stage (f : Frame) : (s.loadFrame f).stage = s.stage := rfl
@[simp] theorem loadFrame_cs (f : Frame) : (s.loadFrame f).cs = s.cs := rfl
@[simp] theorem loadFrame_sk (f : Frame) : (s.loadFrame f).sk = s.sk := rfl
@[simp] theorem loadFrame_di (f : Frame) : (s.loadFrame f).di = s.di := rfl
@[simp] theorem loadFrame_opr (f : Frame) : (s.loadFrame f).opr = s.opr := rfl
@[simp] theorem loadFrame_addr (f : Frame) : (s.loadFrame f).addr = s.addr := rfl
@[simp] theorem loadFrame_wdata (f : Frame) : (s.loadFrame f).wdata = s.wdata := rfl
@[simp] theorem loadFrame_rdata (f : Frame) : (s.loadFrame f).rdata = s.rdata := rfl
@[simp] theorem loadFrame_ok (f : Frame) : (s.loadFrame f).ok = s.ok := rfl
@[simp] theorem loadFrame_rdy (f : Frame) : (s.loadFrame f).rdy = s.rdy := rfl
@[simp] theorem loadFrame_txsr (f : Frame) : (s.loadFrame f).txsr = f.value := rfl
@[simp] theorem loadFrame_txcnt (f : Frame) : (s.loadFrame f).txcnt = BitVec.ofNat 5 f.length := rfl
@[simp] theorem loadFrame_rxacc (f : Frame) : (s.loadFrame f).rxacc = s.rxacc := rfl
@[simp] theorem loadFrame_rxcnt (f : Frame) : (s.loadFrame f).rxcnt = s.rxcnt := rfl
@[simp] theorem loadFrame_pollcnt (f : Frame) : (s.loadFrame f).pollcnt = s.pollcnt := rfl
@[simp] theorem loadFrame_dlycnt (f : Frame) : (s.loadFrame f).dlycnt = s.dlycnt := rfl
@[simp] theorem loadFrame_rspValid (f : Frame) : (s.loadFrame f).rspValid = s.rspValid := rfl
@[simp] theorem loadFrame_params (f : Frame) : (s.loadFrame f).params = s.params := rfl
@[simp] theorem loadFrame_hostQueue (f : Frame) : (s.loadFrame f).hostQueue = s.hostQueue := rfl
@[simp] theorem loadFrame_doAnswers (f : Frame) : (s.loadFrame f).doAnswers = s.doAnswers := rfl
@[simp] theorem loadFrame_smpCount (f : Frame) : (s.loadFrame f).smpCount = s.smpCount := rfl
@[simp] theorem loadFrame_trace (f : Frame) : (s.loadFrame f).trace = s.trace := rfl

@[simp] theorem frameSent_step : s.frameSent.step = s.step := rfl
@[simp] theorem frameSent_busy : s.frameSent.busy = s.busy := rfl
@[simp] theorem frameSent_stage : s.frameSent.stage = s.stage := rfl
@[simp] theorem frameSent_cs : s.frameSent.cs = s.cs := rfl
@[simp] theorem frameSent_sk : s.frameSent.sk = s.sk := rfl
@[simp] theorem frameSent_di : s.frameSent.di = s.di := rfl
@[simp] theorem frameSent_opr : s.frameSent.opr = s.opr := rfl
@[simp] theorem frameSent_addr : s.frameSent.addr = s.addr := rfl
@[simp] theorem frameSent_wdata : s.frameSent.wdata = s.wdata := rfl
@[simp] theorem frameSent_rdata : s.frameSent.rdata = s.rdata := rfl
@[simp] theorem frameSent_ok : s.frameSent.ok = s.ok := rfl
@[simp] theorem frameSent_rdy : s.frameSent.rdy = s.rdy := rfl
@[simp] theorem frameSent_txsr : s.frameSent.txsr = s.txsr := rfl
@[simp] theorem frameSent_txcnt : s.frameSent.txcnt = 0 := rfl
@[simp] theorem frameSent_rxacc : s.frameSent.rxacc = s.rxacc := rfl
@[simp] theorem frameSent_rxcnt : s.frameSent.rxcnt = s.rxcnt := rfl
@[simp] theorem frameSent_pollcnt : s.frameSent.pollcnt = s.pollcnt := rfl
@[simp] theorem frameSent_dlycnt : s.frameSent.dlycnt = s.dlycnt := rfl
@[simp] theorem frameSent_rspValid : s.frameSent.rspValid = s.rspValid := rfl
@[simp] theorem frameSent_params : s.frameSent.params = s.params := rfl
@[simp] theorem frameSent_hostQueue : s.frameSent.hostQueue = s.hostQueue := rfl
@[simp] theorem frameSent_doAnswers : s.frameSent.doAnswers = s.doAnswers := rfl
@[simp] theorem frameSent_smpCount : s.frameSent.smpCount = s.smpCount := rfl
@[simp] theorem frameSent_trace : s.frameSent.trace = s.trace := rfl

@[simp] theorem countTx_step : s.countTx.step = s.step := rfl
@[simp] theorem countTx_busy : s.countTx.busy = s.busy := rfl
@[simp] theorem countTx_stage : s.countTx.stage = s.stage := rfl
@[simp] theorem countTx_cs : s.countTx.cs = s.cs := rfl
@[simp] theorem countTx_sk : s.countTx.sk = s.sk := rfl
@[simp] theorem countTx_di : s.countTx.di = s.di := rfl
@[simp] theorem countTx_opr : s.countTx.opr = s.opr := rfl
@[simp] theorem countTx_addr : s.countTx.addr = s.addr := rfl
@[simp] theorem countTx_wdata : s.countTx.wdata = s.wdata := rfl
@[simp] theorem countTx_rdata : s.countTx.rdata = s.rdata := rfl
@[simp] theorem countTx_ok : s.countTx.ok = s.ok := rfl
@[simp] theorem countTx_rdy : s.countTx.rdy = s.rdy := rfl
@[simp] theorem countTx_txsr : s.countTx.txsr = s.txsr := rfl
@[simp] theorem countTx_txcnt : s.countTx.txcnt = s.txcnt - 1 := rfl
@[simp] theorem countTx_rxacc : s.countTx.rxacc = s.rxacc := rfl
@[simp] theorem countTx_rxcnt : s.countTx.rxcnt = s.rxcnt := rfl
@[simp] theorem countTx_pollcnt : s.countTx.pollcnt = s.pollcnt := rfl
@[simp] theorem countTx_dlycnt : s.countTx.dlycnt = s.dlycnt := rfl
@[simp] theorem countTx_rspValid : s.countTx.rspValid = s.rspValid := rfl
@[simp] theorem countTx_params : s.countTx.params = s.params := rfl
@[simp] theorem countTx_hostQueue : s.countTx.hostQueue = s.hostQueue := rfl
@[simp] theorem countTx_doAnswers : s.countTx.doAnswers = s.doAnswers := rfl
@[simp] theorem countTx_smpCount : s.countTx.smpCount = s.smpCount := rfl
@[simp] theorem countTx_trace : s.countTx.trace = s.trace := rfl

@[simp] theorem startReceive_step : s.startReceive.step = s.step := rfl
@[simp] theorem startReceive_busy : s.startReceive.busy = s.busy := rfl
@[simp] theorem startReceive_stage : s.startReceive.stage = s.stage := rfl
@[simp] theorem startReceive_cs : s.startReceive.cs = s.cs := rfl
@[simp] theorem startReceive_sk : s.startReceive.sk = s.sk := rfl
@[simp] theorem startReceive_di : s.startReceive.di = s.di := rfl
@[simp] theorem startReceive_opr : s.startReceive.opr = s.opr := rfl
@[simp] theorem startReceive_addr : s.startReceive.addr = s.addr := rfl
@[simp] theorem startReceive_wdata : s.startReceive.wdata = s.wdata := rfl
@[simp] theorem startReceive_rdata : s.startReceive.rdata = s.rdata := rfl
@[simp] theorem startReceive_ok : s.startReceive.ok = s.ok := rfl
@[simp] theorem startReceive_rdy : s.startReceive.rdy = s.rdy := rfl
@[simp] theorem startReceive_txsr : s.startReceive.txsr = s.txsr := rfl
@[simp] theorem startReceive_txcnt : s.startReceive.txcnt = s.txcnt := rfl
@[simp] theorem startReceive_rxacc : s.startReceive.rxacc = s.rxacc := rfl
@[simp] theorem startReceive_rxcnt : s.startReceive.rxcnt = 16 := rfl
@[simp] theorem startReceive_pollcnt : s.startReceive.pollcnt = s.pollcnt := rfl
@[simp] theorem startReceive_dlycnt : s.startReceive.dlycnt = s.dlycnt := rfl
@[simp] theorem startReceive_rspValid : s.startReceive.rspValid = s.rspValid := rfl
@[simp] theorem startReceive_params : s.startReceive.params = s.params := rfl
@[simp] theorem startReceive_hostQueue : s.startReceive.hostQueue = s.hostQueue := rfl
@[simp] theorem startReceive_doAnswers : s.startReceive.doAnswers = s.doAnswers := rfl
@[simp] theorem startReceive_smpCount : s.startReceive.smpCount = s.smpCount := rfl
@[simp] theorem startReceive_trace : s.startReceive.trace = s.trace := rfl

@[simp] theorem clearAcc_step : s.clearAcc.step = s.step := rfl
@[simp] theorem clearAcc_busy : s.clearAcc.busy = s.busy := rfl
@[simp] theorem clearAcc_stage : s.clearAcc.stage = s.stage := rfl
@[simp] theorem clearAcc_cs : s.clearAcc.cs = s.cs := rfl
@[simp] theorem clearAcc_sk : s.clearAcc.sk = s.sk := rfl
@[simp] theorem clearAcc_di : s.clearAcc.di = s.di := rfl
@[simp] theorem clearAcc_opr : s.clearAcc.opr = s.opr := rfl
@[simp] theorem clearAcc_addr : s.clearAcc.addr = s.addr := rfl
@[simp] theorem clearAcc_wdata : s.clearAcc.wdata = s.wdata := rfl
@[simp] theorem clearAcc_rdata : s.clearAcc.rdata = s.rdata := rfl
@[simp] theorem clearAcc_ok : s.clearAcc.ok = s.ok := rfl
@[simp] theorem clearAcc_rdy : s.clearAcc.rdy = s.rdy := rfl
@[simp] theorem clearAcc_txsr : s.clearAcc.txsr = s.txsr := rfl
@[simp] theorem clearAcc_txcnt : s.clearAcc.txcnt = s.txcnt := rfl
@[simp] theorem clearAcc_rxacc : s.clearAcc.rxacc = 0 := rfl
@[simp] theorem clearAcc_rxcnt : s.clearAcc.rxcnt = s.rxcnt := rfl
@[simp] theorem clearAcc_pollcnt : s.clearAcc.pollcnt = s.pollcnt := rfl
@[simp] theorem clearAcc_dlycnt : s.clearAcc.dlycnt = s.dlycnt := rfl
@[simp] theorem clearAcc_rspValid : s.clearAcc.rspValid = s.rspValid := rfl
@[simp] theorem clearAcc_params : s.clearAcc.params = s.params := rfl
@[simp] theorem clearAcc_hostQueue : s.clearAcc.hostQueue = s.hostQueue := rfl
@[simp] theorem clearAcc_doAnswers : s.clearAcc.doAnswers = s.doAnswers := rfl
@[simp] theorem clearAcc_smpCount : s.clearAcc.smpCount = s.smpCount := rfl
@[simp] theorem clearAcc_trace : s.clearAcc.trace = s.trace := rfl

@[simp] theorem shiftIn_step (b : Bool) : (s.shiftIn b).step = s.step := rfl
@[simp] theorem shiftIn_busy (b : Bool) : (s.shiftIn b).busy = s.busy := rfl
@[simp] theorem shiftIn_stage (b : Bool) : (s.shiftIn b).stage = s.stage := rfl
@[simp] theorem shiftIn_cs (b : Bool) : (s.shiftIn b).cs = s.cs := rfl
@[simp] theorem shiftIn_sk (b : Bool) : (s.shiftIn b).sk = s.sk := rfl
@[simp] theorem shiftIn_di (b : Bool) : (s.shiftIn b).di = s.di := rfl
@[simp] theorem shiftIn_opr (b : Bool) : (s.shiftIn b).opr = s.opr := rfl
@[simp] theorem shiftIn_addr (b : Bool) : (s.shiftIn b).addr = s.addr := rfl
@[simp] theorem shiftIn_wdata (b : Bool) : (s.shiftIn b).wdata = s.wdata := rfl
@[simp] theorem shiftIn_rdata (b : Bool) : (s.shiftIn b).rdata = s.rdata := rfl
@[simp] theorem shiftIn_ok (b : Bool) : (s.shiftIn b).ok = s.ok := rfl
@[simp] theorem shiftIn_rdy (b : Bool) : (s.shiftIn b).rdy = s.rdy := rfl
@[simp] theorem shiftIn_txsr (b : Bool) : (s.shiftIn b).txsr = s.txsr := rfl
@[simp] theorem shiftIn_txcnt (b : Bool) : (s.shiftIn b).txcnt = s.txcnt := rfl
@[simp] theorem shiftIn_rxacc (b : Bool) : (s.shiftIn b).rxacc = rxShift s.rxacc b := rfl
@[simp] theorem shiftIn_rxcnt (b : Bool) : (s.shiftIn b).rxcnt = s.rxcnt - 1 := rfl
@[simp] theorem shiftIn_pollcnt (b : Bool) : (s.shiftIn b).pollcnt = s.pollcnt := rfl
@[simp] theorem shiftIn_dlycnt (b : Bool) : (s.shiftIn b).dlycnt = s.dlycnt := rfl
@[simp] theorem shiftIn_rspValid (b : Bool) : (s.shiftIn b).rspValid = s.rspValid := rfl
@[simp] theorem shiftIn_params (b : Bool) : (s.shiftIn b).params = s.params := rfl
@[simp] theorem shiftIn_hostQueue (b : Bool) : (s.shiftIn b).hostQueue = s.hostQueue := rfl
@[simp] theorem shiftIn_doAnswers (b : Bool) : (s.shiftIn b).doAnswers = s.doAnswers := rfl
@[simp] theorem shiftIn_smpCount (b : Bool) : (s.shiftIn b).smpCount = s.smpCount := rfl
@[simp] theorem shiftIn_trace (b : Bool) : (s.shiftIn b).trace = s.trace := rfl

@[simp] theorem latchRead_step : s.latchRead.step = s.step := rfl
@[simp] theorem latchRead_busy : s.latchRead.busy = s.busy := rfl
@[simp] theorem latchRead_stage : s.latchRead.stage = s.stage := rfl
@[simp] theorem latchRead_cs : s.latchRead.cs = s.cs := rfl
@[simp] theorem latchRead_sk : s.latchRead.sk = s.sk := rfl
@[simp] theorem latchRead_di : s.latchRead.di = s.di := rfl
@[simp] theorem latchRead_opr : s.latchRead.opr = s.opr := rfl
@[simp] theorem latchRead_addr : s.latchRead.addr = s.addr := rfl
@[simp] theorem latchRead_wdata : s.latchRead.wdata = s.wdata := rfl
@[simp] theorem latchRead_rdata : s.latchRead.rdata = s.rxacc := rfl
@[simp] theorem latchRead_ok : s.latchRead.ok = s.ok := rfl
@[simp] theorem latchRead_rdy : s.latchRead.rdy = s.rdy := rfl
@[simp] theorem latchRead_txsr : s.latchRead.txsr = s.txsr := rfl
@[simp] theorem latchRead_txcnt : s.latchRead.txcnt = s.txcnt := rfl
@[simp] theorem latchRead_rxacc : s.latchRead.rxacc = s.rxacc := rfl
@[simp] theorem latchRead_rxcnt : s.latchRead.rxcnt = s.rxcnt := rfl
@[simp] theorem latchRead_pollcnt : s.latchRead.pollcnt = s.pollcnt := rfl
@[simp] theorem latchRead_dlycnt : s.latchRead.dlycnt = s.dlycnt := rfl
@[simp] theorem latchRead_rspValid : s.latchRead.rspValid = s.rspValid := rfl
@[simp] theorem latchRead_params : s.latchRead.params = s.params := rfl
@[simp] theorem latchRead_hostQueue : s.latchRead.hostQueue = s.hostQueue := rfl
@[simp] theorem latchRead_doAnswers : s.latchRead.doAnswers = s.doAnswers := rfl
@[simp] theorem latchRead_smpCount : s.latchRead.smpCount = s.smpCount := rfl
@[simp] theorem latchRead_trace : s.latchRead.trace = s.trace := rfl

@[simp] theorem accept_step (op : OpCode) : (s.accept op).step = s.step := rfl
@[simp] theorem accept_busy (op : OpCode) : (s.accept op).busy = true := rfl
@[simp] theorem accept_stage (op : OpCode) : (s.accept op).stage = .enableFrame := rfl
@[simp] theorem accept_cs (op : OpCode) : (s.accept op).cs = s.cs := rfl
@[simp] theorem accept_sk (op : OpCode) : (s.accept op).sk = s.sk := rfl
@[simp] theorem accept_di (op : OpCode) : (s.accept op).di = s.di := rfl
@[simp] theorem accept_opr (op : OpCode) : (s.accept op).opr = op := rfl
@[simp] theorem accept_addr (op : OpCode) : (s.accept op).addr = s.addr := rfl
@[simp] theorem accept_wdata (op : OpCode) : (s.accept op).wdata = s.wdata := rfl
@[simp] theorem accept_rdata (op : OpCode) : (s.accept op).rdata = s.rdata := rfl
@[simp] theorem accept_ok (op : OpCode) : (s.accept op).ok = s.ok := rfl
@[simp] theorem accept_rdy (op : OpCode) : (s.accept op).rdy = s.rdy := rfl
@[simp] theorem accept_txsr (op : OpCode) : (s.accept op).txsr = s.txsr := rfl
@[simp] theorem accept_txcnt (op : OpCode) : (s.accept op).txcnt = s.txcnt := rfl
@[simp] theorem accept_rxacc (op : OpCode) : (s.accept op).rxacc = s.rxacc := rfl
@[simp] theorem accept_rxcnt (op : OpCode) : (s.accept op).rxcnt = s.rxcnt := rfl
@[simp] theorem accept_pollcnt (op : OpCode) : (s.accept op).pollcnt = s.pollcnt := rfl
@[simp] theorem accept_dlycnt (op : OpCode) : (s.accept op).dlycnt = s.dlycnt := rfl
@[simp] theorem accept_rspValid (op : OpCode) : (s.accept op).rspValid = false := rfl
@[simp] theorem accept_params (op : OpCode) : (s.accept op).params = s.params := rfl
@[simp] theorem accept_hostQueue (op : OpCode) : (s.accept op).hostQueue = s.hostQueue := rfl
@[simp] theorem accept_doAnswers (op : OpCode) : (s.accept op).doAnswers = s.doAnswers := rfl
@[simp] theorem accept_smpCount (op : OpCode) : (s.accept op).smpCount = s.smpCount := rfl
@[simp] theorem accept_trace (op : OpCode) : (s.accept op).trace = s.trace := rfl

@[simp] theorem finish_step (v : Bool) : (s.finish v).step = .idle := rfl
@[simp] theorem finish_busy (v : Bool) : (s.finish v).busy = false := rfl
@[simp] theorem finish_stage (v : Bool) : (s.finish v).stage = s.stage := rfl
@[simp] theorem finish_cs (v : Bool) : (s.finish v).cs = s.cs := rfl
@[simp] theorem finish_sk (v : Bool) : (s.finish v).sk = s.sk := rfl
@[simp] theorem finish_di (v : Bool) : (s.finish v).di = s.di := rfl
@[simp] theorem finish_opr (v : Bool) : (s.finish v).opr = s.opr := rfl
@[simp] theorem finish_addr (v : Bool) : (s.finish v).addr = s.addr := rfl
@[simp] theorem finish_wdata (v : Bool) : (s.finish v).wdata = s.wdata := rfl
@[simp] theorem finish_rdata (v : Bool) : (s.finish v).rdata = s.rdata := rfl
@[simp] theorem finish_ok (v : Bool) : (s.finish v).ok = v := rfl
@[simp] theorem finish_rdy (v : Bool) : (s.finish v).rdy = s.rdy := rfl
@[simp] theorem finish_txsr (v : Bool) : (s.finish v).txsr = s.txsr := rfl
@[simp] theorem finish_txcnt (v : Bool) : (s.finish v).txcnt = s.txcnt := rfl
@[simp] theorem finish_rxacc (v : Bool) : (s.finish v).rxacc = s.rxacc := rfl
@[simp] theorem finish_rxcnt (v : Bool) : (s.finish v).rxcnt = s.rxcnt := rfl
@[simp] theorem finish_pollcnt (v : Bool) : (s.finish v).pollcnt = s.pollcnt := rfl
@[simp] theorem finish_dlycnt (v : Bool) : (s.finish v).dlycnt = s.dlycnt := rfl
@[simp] theorem finish_rspValid (v : Bool) : (s.finish v).rspValid = true := rfl
@[simp] theorem finish_params (v : Bool) : (s.finish v).params = s.params := rfl
@[simp] theorem finish_hostQueue (v : Bool) : (s.finish v).hostQueue = s.hostQueue := rfl
@[simp] theorem finish_doAnswers (v : Bool) : (s.finish v).doAnswers = s.doAnswers := rfl
@[simp] theorem finish_smpCount (v : Bool) : (s.finish v).smpCount = s.smpCount := rfl
@[simp] theorem finish_trace (v : Bool) : (s.finish v).trace = s.trace := rfl

@[simp] theorem setRdy_step (v : Bool) : (s.setRdy v).step = s.step := rfl
@[simp] theorem setRdy_busy (v : Bool) : (s.setRdy v).busy = s.busy := rfl
@[simp] theorem setRdy_stage (v : Bool) : (s.setRdy v).stage = s.stage := rfl
@[simp] theorem setRdy_cs (v : Bool) : (s.setRdy v).cs = s.cs := rfl
@[simp] theorem setRdy_sk (v : Bool) : (s.setRdy v).sk = s.sk := rfl
@[simp] theorem setRdy_di (v : Bool) : (s.setRdy v).di = s.di := rfl
@[simp] theorem setRdy_opr (v : Bool) : (s.setRdy v).opr = s.opr := rfl
@[simp] theorem setRdy_addr (v : Bool) : (s.setRdy v).addr = s.addr := rfl
@[simp] theorem setRdy_wdata (v : Bool) : (s.setRdy v).wdata = s.wdata := rfl
@[simp] theorem setRdy_rdata (v : Bool) : (s.setRdy v).rdata = s.rdata := rfl
@[simp] theorem setRdy_ok (v : Bool) : (s.setRdy v).ok = s.ok := rfl
@[simp] theorem setRdy_rdy (v : Bool) : (s.setRdy v).rdy = v := rfl
@[simp] theorem setRdy_txsr (v : Bool) : (s.setRdy v).txsr = s.txsr := rfl
@[simp] theorem setRdy_txcnt (v : Bool) : (s.setRdy v).txcnt = s.txcnt := rfl
@[simp] theorem setRdy_rxacc (v : Bool) : (s.setRdy v).rxacc = s.rxacc := rfl
@[simp] theorem setRdy_rxcnt (v : Bool) : (s.setRdy v).rxcnt = s.rxcnt := rfl
@[simp] theorem setRdy_pollcnt (v : Bool) : (s.setRdy v).pollcnt = s.pollcnt := rfl
@[simp] theorem setRdy_dlycnt (v : Bool) : (s.setRdy v).dlycnt = s.dlycnt := rfl
@[simp] theorem setRdy_rspValid (v : Bool) : (s.setRdy v).rspValid = s.rspValid := rfl
@[simp] theorem setRdy_params (v : Bool) : (s.setRdy v).params = s.params := rfl
@[simp] theorem setRdy_hostQueue (v : Bool) : (s.setRdy v).hostQueue = s.hostQueue := rfl
@[simp] theorem setRdy_doAnswers (v : Bool) : (s.setRdy v).doAnswers = s.doAnswers := rfl
@[simp] theorem setRdy_smpCount (v : Bool) : (s.setRdy v).smpCount = s.smpCount := rfl
@[simp] theorem setRdy_trace (v : Bool) : (s.setRdy v).trace = s.trace := rfl

@[simp] theorem clearPoll_step : s.clearPoll.step = s.step := rfl
@[simp] theorem clearPoll_busy : s.clearPoll.busy = s.busy := rfl
@[simp] theorem clearPoll_stage : s.clearPoll.stage = s.stage := rfl
@[simp] theorem clearPoll_cs : s.clearPoll.cs = s.cs := rfl
@[simp] theorem clearPoll_sk : s.clearPoll.sk = s.sk := rfl
@[simp] theorem clearPoll_di : s.clearPoll.di = s.di := rfl
@[simp] theorem clearPoll_opr : s.clearPoll.opr = s.opr := rfl
@[simp] theorem clearPoll_addr : s.clearPoll.addr = s.addr := rfl
@[simp] theorem clearPoll_wdata : s.clearPoll.wdata = s.wdata := rfl
@[simp] theorem clearPoll_rdata : s.clearPoll.rdata = s.rdata := rfl
@[simp] theorem clearPoll_ok : s.clearPoll.ok = s.ok := rfl
@[simp] theorem clearPoll_rdy : s.clearPoll.rdy = s.rdy := rfl
@[simp] theorem clearPoll_txsr : s.clearPoll.txsr = s.txsr := rfl
@[simp] theorem clearPoll_txcnt : s.clearPoll.txcnt = s.txcnt := rfl
@[simp] theorem clearPoll_rxacc : s.clearPoll.rxacc = s.rxacc := rfl
@[simp] theorem clearPoll_rxcnt : s.clearPoll.rxcnt = s.rxcnt := rfl
@[simp] theorem clearPoll_pollcnt : s.clearPoll.pollcnt = 0 := rfl
@[simp] theorem clearPoll_dlycnt : s.clearPoll.dlycnt = s.dlycnt := rfl
@[simp] theorem clearPoll_rspValid : s.clearPoll.rspValid = s.rspValid := rfl
@[simp] theorem clearPoll_params : s.clearPoll.params = s.params := rfl
@[simp] theorem clearPoll_hostQueue : s.clearPoll.hostQueue = s.hostQueue := rfl
@[simp] theorem clearPoll_doAnswers : s.clearPoll.doAnswers = s.doAnswers := rfl
@[simp] theorem clearPoll_smpCount : s.clearPoll.smpCount = s.smpCount := rfl
@[simp] theorem clearPoll_trace : s.clearPoll.trace = s.trace := rfl

@[simp] theorem countPoll_step : s.countPoll.step = s.step := rfl
@[simp] theorem countPoll_busy : s.countPoll.busy = s.busy := rfl
@[simp] theorem countPoll_stage : s.countPoll.stage = s.stage := rfl
@[simp] theorem countPoll_cs : s.countPoll.cs = s.cs := rfl
@[simp] theorem countPoll_sk : s.countPoll.sk = s.sk := rfl
@[simp] theorem countPoll_di : s.countPoll.di = s.di := rfl
@[simp] theorem countPoll_opr : s.countPoll.opr = s.opr := rfl
@[simp] theorem countPoll_addr : s.countPoll.addr = s.addr := rfl
@[simp] theorem countPoll_wdata : s.countPoll.wdata = s.wdata := rfl
@[simp] theorem countPoll_rdata : s.countPoll.rdata = s.rdata := rfl
@[simp] theorem countPoll_ok : s.countPoll.ok = s.ok := rfl
@[simp] theorem countPoll_rdy : s.countPoll.rdy = s.rdy := rfl
@[simp] theorem countPoll_txsr : s.countPoll.txsr = s.txsr := rfl
@[simp] theorem countPoll_txcnt : s.countPoll.txcnt = s.txcnt := rfl
@[simp] theorem countPoll_rxacc : s.countPoll.rxacc = s.rxacc := rfl
@[simp] theorem countPoll_rxcnt : s.countPoll.rxcnt = s.rxcnt := rfl
@[simp] theorem countPoll_pollcnt : s.countPoll.pollcnt = s.pollcnt + 1 := rfl
@[simp] theorem countPoll_dlycnt : s.countPoll.dlycnt = s.dlycnt := rfl
@[simp] theorem countPoll_rspValid : s.countPoll.rspValid = s.rspValid := rfl
@[simp] theorem countPoll_params : s.countPoll.params = s.params := rfl
@[simp] theorem countPoll_hostQueue : s.countPoll.hostQueue = s.hostQueue := rfl
@[simp] theorem countPoll_doAnswers : s.countPoll.doAnswers = s.doAnswers := rfl
@[simp] theorem countPoll_smpCount : s.countPoll.smpCount = s.smpCount := rfl
@[simp] theorem countPoll_trace : s.countPoll.trace = s.trace := rfl

@[simp] theorem controlReset_step : s.controlReset.step = .idle := rfl
@[simp] theorem controlReset_busy : s.controlReset.busy = false := rfl
@[simp] theorem controlReset_stage : s.controlReset.stage = .enableFrame := rfl
@[simp] theorem controlReset_cs : s.controlReset.cs = s.cs := rfl
@[simp] theorem controlReset_sk : s.controlReset.sk = s.sk := rfl
@[simp] theorem controlReset_di : s.controlReset.di = s.di := rfl
@[simp] theorem controlReset_opr : s.controlReset.opr = s.opr := rfl
@[simp] theorem controlReset_addr : s.controlReset.addr = s.addr := rfl
@[simp] theorem controlReset_wdata : s.controlReset.wdata = s.wdata := rfl
@[simp] theorem controlReset_rdata : s.controlReset.rdata = s.rdata := rfl
@[simp] theorem controlReset_ok : s.controlReset.ok = s.ok := rfl
@[simp] theorem controlReset_rdy : s.controlReset.rdy = s.rdy := rfl
@[simp] theorem controlReset_txsr : s.controlReset.txsr = s.txsr := rfl
@[simp] theorem controlReset_txcnt : s.controlReset.txcnt = s.txcnt := rfl
@[simp] theorem controlReset_rxacc : s.controlReset.rxacc = s.rxacc := rfl
@[simp] theorem controlReset_rxcnt : s.controlReset.rxcnt = s.rxcnt := rfl
@[simp] theorem controlReset_pollcnt : s.controlReset.pollcnt = s.pollcnt := rfl
@[simp] theorem controlReset_dlycnt : s.controlReset.dlycnt = s.dlycnt := rfl
@[simp] theorem controlReset_rspValid : s.controlReset.rspValid = false := rfl
@[simp] theorem controlReset_params : s.controlReset.params = s.params := rfl
@[simp] theorem controlReset_hostQueue : s.controlReset.hostQueue = s.hostQueue := rfl
@[simp] theorem controlReset_doAnswers : s.controlReset.doAnswers = s.doAnswers := rfl
@[simp] theorem controlReset_smpCount : s.controlReset.smpCount = s.smpCount := rfl
@[simp] theorem controlReset_trace : s.controlReset.trace = s.trace := rfl

@[simp] theorem setDly_step (n : Nat) : (s.setDly n).step = s.step := rfl
@[simp] theorem setDly_busy (n : Nat) : (s.setDly n).busy = s.busy := rfl
@[simp] theorem setDly_stage (n : Nat) : (s.setDly n).stage = s.stage := rfl
@[simp] theorem setDly_cs (n : Nat) : (s.setDly n).cs = s.cs := rfl
@[simp] theorem setDly_sk (n : Nat) : (s.setDly n).sk = s.sk := rfl
@[simp] theorem setDly_di (n : Nat) : (s.setDly n).di = s.di := rfl
@[simp] theorem setDly_opr (n : Nat) : (s.setDly n).opr = s.opr := rfl
@[simp] theorem setDly_addr (n : Nat) : (s.setDly n).addr = s.addr := rfl
@[simp] theorem setDly_wdata (n : Nat) : (s.setDly n).wdata = s.wdata := rfl
@[simp] theorem setDly_rdata (n : Nat) : (s.setDly n).rdata = s.rdata := rfl
@[simp] theorem setDly_ok (n : Nat) : (s.setDly n).ok = s.ok := rfl
@[simp] theorem setDly_rdy (n : Nat) : (s.setDly n).rdy = s.rdy := rfl
@[simp] theorem setDly_txsr (n : Nat) : (s.setDly n).txsr = s.txsr := rfl
@[simp] theorem setDly_txcnt (n : Nat) : (s.setDly n).txcnt = s.txcnt := rfl
@[simp] theorem setDly_rxacc (n : Nat) : (s.setDly n).rxacc = s.rxacc := rfl
@[simp] theorem setDly_rxcnt (n : Nat) : (s.setDly n).rxcnt = s.rxcnt := rfl
@[simp] theorem setDly_pollcnt (n : Nat) : (s.setDly n).pollcnt = s.pollcnt := rfl
@[simp] theorem setDly_dlycnt (n : Nat) : (s.setDly n).dlycnt = n := rfl
@[simp] theorem setDly_rspValid (n : Nat) : (s.setDly n).rspValid = s.rspValid := rfl
@[simp] theorem setDly_params (n : Nat) : (s.setDly n).params = s.params := rfl
@[simp] theorem setDly_hostQueue (n : Nat) : (s.setDly n).hostQueue = s.hostQueue := rfl
@[simp] theorem setDly_doAnswers (n : Nat) : (s.setDly n).doAnswers = s.doAnswers := rfl
@[simp] theorem setDly_smpCount (n : Nat) : (s.setDly n).smpCount = s.smpCount := rfl
@[simp] theorem setDly_trace (n : Nat) : (s.setDly n).trace = s.trace := rfl

@[simp] theorem consumed_step (n : Nat) : (s.consumed n).step = s.step := rfl
@[simp] theorem consumed_busy (n : Nat) : (s.consumed n).busy = s.busy := rfl
@[simp] theorem consumed_stage (n : Nat) : (s.consumed n).stage = s.stage := rfl
@[simp] theorem consumed_cs (n : Nat) : (s.consumed n).cs = s.cs := rfl
@[simp] theorem consumed_sk (n : Nat) : (s.consumed n).sk = s.sk := rfl
@[simp] theorem consumed_di (n : Nat) : (s.consumed n).di = s.di := rfl
@[simp] theorem consumed_opr (n : Nat) : (s.consumed n).opr = s.opr := rfl
@[simp] theorem consumed_addr (n : Nat) : (s.consumed n).addr = s.addr := rfl
@[simp] theorem consumed_wdata (n : Nat) : (s.consumed n).wdata = s.wdata := rfl
@[simp] theorem consumed_rdata (n : Nat) : (s.consumed n).rdata = s.rdata := rfl
@[simp] theorem consumed_ok (n : Nat) : (s.consumed n).ok = s.ok := rfl
@[simp] theorem consumed_rdy (n : Nat) : (s.consumed n).rdy = s.rdy := rfl
@[simp] theorem consumed_txsr (n : Nat) : (s.consumed n).txsr = s.txsr := rfl
@[simp] theorem consumed_txcnt (n : Nat) : (s.consumed n).txcnt = s.txcnt := rfl
@[simp] theorem consumed_rxacc (n : Nat) : (s.consumed n).rxacc = s.rxacc := rfl
@[simp] theorem consumed_rxcnt (n : Nat) : (s.consumed n).rxcnt = s.rxcnt := rfl
@[simp] theorem consumed_pollcnt (n : Nat) : (s.consumed n).pollcnt = s.pollcnt := rfl
@[simp] theorem consumed_dlycnt (n : Nat) : (s.consumed n).dlycnt = s.dlycnt := rfl
@[simp] theorem consumed_rspValid (n : Nat) : (s.consumed n).rspValid = s.rspValid := rfl
@[simp] theorem consumed_params (n : Nat) : (s.consumed n).params = s.params := rfl
@[simp] theorem consumed_hostQueue (n : Nat) : (s.consumed n).hostQueue = s.hostQueue := rfl
@[simp] theorem consumed_doAnswers (n : Nat) : (s.consumed n).doAnswers = s.doAnswers.drop n := rfl
@[simp] theorem consumed_smpCount (n : Nat) : (s.consumed n).smpCount = s.smpCount + n := rfl
@[simp] theorem consumed_trace (n : Nat) : (s.consumed n).trace = s.trace := rfl

@[simp] theorem noTrace_step : s.noTrace.step = s.step := rfl
@[simp] theorem noTrace_busy : s.noTrace.busy = s.busy := rfl
@[simp] theorem noTrace_stage : s.noTrace.stage = s.stage := rfl
@[simp] theorem noTrace_cs : s.noTrace.cs = s.cs := rfl
@[simp] theorem noTrace_sk : s.noTrace.sk = s.sk := rfl
@[simp] theorem noTrace_di : s.noTrace.di = s.di := rfl
@[simp] theorem noTrace_opr : s.noTrace.opr = s.opr := rfl
@[simp] theorem noTrace_addr : s.noTrace.addr = s.addr := rfl
@[simp] theorem noTrace_wdata : s.noTrace.wdata = s.wdata := rfl
@[simp] theorem noTrace_rdata : s.noTrace.rdata = s.rdata := rfl
@[simp] theorem noTrace_ok : s.noTrace.ok = s.ok := rfl
@[simp] theorem noTrace_rdy : s.noTrace.rdy = s.rdy := rfl
@[simp] theorem noTrace_txsr : s.noTrace.txsr = s.txsr := rfl
@[simp] theorem noTrace_txcnt : s.noTrace.txcnt = s.txcnt := rfl
@[simp] theorem noTrace_rxacc : s.noTrace.rxacc = s.rxacc := rfl
@[simp] theorem noTrace_rxcnt : s.noTrace.rxcnt = s.rxcnt := rfl
@[simp] theorem noTrace_pollcnt : s.noTrace.pollcnt = s.pollcnt := rfl
@[simp] theorem noTrace_dlycnt : s.noTrace.dlycnt = s.dlycnt := rfl
@[simp] theorem noTrace_rspValid : s.noTrace.rspValid = s.rspValid := rfl
@[simp] theorem noTrace_params : s.noTrace.params = s.params := rfl
@[simp] theorem noTrace_hostQueue : s.noTrace.hostQueue = s.hostQueue := rfl
@[simp] theorem noTrace_doAnswers : s.noTrace.doAnswers = s.doAnswers := rfl
@[simp] theorem noTrace_smpCount : s.noTrace.smpCount = s.smpCount := rfl
@[simp] theorem noTrace_trace : s.noTrace.trace = [] := rfl

/-! What a view of the state does not read, it does not see. -/

@[simp] theorem driveCs_frame (l : Bool) : (s.driveCs l).frame = s.frame := rfl
@[simp] theorem driveCs_inFrame (l : Bool) : (s.driveCs l).inFrame = s.inFrame := rfl
@[simp] theorem driveCs_inPoll (l : Bool) : (s.driveCs l).inPoll = s.inPoll := rfl
@[simp] theorem driveCs_answer (l : Bool) : (s.driveCs l).answer = s.answer := rfl
@[simp] theorem driveCs_doLevel (l : Bool) : (s.driveCs l).doLevel = s.doLevel := rfl
@[simp] theorem driveSk_frame (l : Bool) : (s.driveSk l).frame = s.frame := rfl
@[simp] theorem driveSk_inFrame (l : Bool) : (s.driveSk l).inFrame = s.inFrame := rfl
@[simp] theorem driveSk_inPoll (l : Bool) : (s.driveSk l).inPoll = s.inPoll := rfl
@[simp] theorem driveSk_sending (l : Bool) : (s.driveSk l).sending = s.sending := rfl
@[simp] theorem driveSk_receiving (l : Bool) : (s.driveSk l).receiving = s.receiving := rfl
@[simp] theorem driveSk_polling (l : Bool) : (s.driveSk l).polling = s.polling := rfl
@[simp] theorem driveSk_answer (l : Bool) : (s.driveSk l).answer = s.answer := rfl
@[simp] theorem driveSk_doLevel (l : Bool) : (s.driveSk l).doLevel = s.doLevel := rfl
@[simp] theorem driveDi_frame (l : Bool) : (s.driveDi l).frame = s.frame := rfl
@[simp] theorem driveDi_inFrame (l : Bool) : (s.driveDi l).inFrame = s.inFrame := rfl
@[simp] theorem driveDi_inPoll (l : Bool) : (s.driveDi l).inPoll = s.inPoll := rfl
@[simp] theorem driveDi_sending (l : Bool) : (s.driveDi l).sending = s.sending := rfl
@[simp] theorem driveDi_answer (l : Bool) : (s.driveDi l).answer = s.answer := rfl
@[simp] theorem driveDi_doLevel (l : Bool) : (s.driveDi l).doLevel = s.doLevel := rfl
@[simp] theorem delay_frame : s.delay.frame = s.frame := rfl
@[simp] theorem delay_inFrame : s.delay.inFrame = s.inFrame := rfl
@[simp] theorem delay_inPoll : s.delay.inPoll = s.inPoll := rfl
@[simp] theorem delay_sending : s.delay.sending = s.sending := rfl
@[simp] theorem delay_receiving : s.delay.receiving = s.receiving := rfl
@[simp] theorem delay_polling : s.delay.polling = s.polling := rfl
@[simp] theorem delay_answer : s.delay.answer = s.answer := rfl
@[simp] theorem delay_doLevel : s.delay.doLevel = s.doLevel := rfl
@[simp] theorem delay_lines : s.delay.lines = s.lines := rfl
@[simp] theorem sampled_frame : s.sampled.frame = s.frame := rfl
@[simp] theorem sampled_inFrame : s.sampled.inFrame = s.inFrame := rfl
@[simp] theorem sampled_inPoll : s.sampled.inPoll = s.inPoll := rfl
@[simp] theorem sampled_sending : s.sampled.sending = s.sending := rfl
@[simp] theorem sampled_receiving : s.sampled.receiving = s.receiving := rfl
@[simp] theorem sampled_polling : s.sampled.polling = s.polling := rfl
@[simp] theorem sampled_lines : s.sampled.lines = s.lines := rfl
@[simp] theorem goto_frame (x : SeqStep) : (s.goto x).frame = s.frame := rfl
@[simp] theorem goto_inFrame (x : SeqStep) : (s.goto x).inFrame = s.inFrame := rfl
@[simp] theorem goto_inPoll (x : SeqStep) : (s.goto x).inPoll = s.inPoll := rfl
@[simp] theorem goto_sending (x : SeqStep) : (s.goto x).sending = s.sending := rfl
@[simp] theorem goto_receiving (x : SeqStep) : (s.goto x).receiving = s.receiving := rfl
@[simp] theorem goto_polling (x : SeqStep) : (s.goto x).polling = s.polling := rfl
@[simp] theorem goto_answer (x : SeqStep) : (s.goto x).answer = s.answer := rfl
@[simp] theorem goto_doLevel (x : SeqStep) : (s.goto x).doLevel = s.doLevel := rfl
@[simp] theorem goto_lines (x : SeqStep) : (s.goto x).lines = s.lines := rfl
@[simp] theorem setStage_answer (x : Stage) : (s.setStage x).answer = s.answer := rfl
@[simp] theorem setStage_doLevel (x : Stage) : (s.setStage x).doLevel = s.doLevel := rfl
@[simp] theorem setStage_lines (x : Stage) : (s.setStage x).lines = s.lines := rfl
@[simp] theorem quiet_frame : s.quiet.frame = s.frame := rfl
@[simp] theorem quiet_inFrame : s.quiet.inFrame = s.inFrame := rfl
@[simp] theorem quiet_inPoll : s.quiet.inPoll = s.inPoll := rfl
@[simp] theorem quiet_sending : s.quiet.sending = s.sending := rfl
@[simp] theorem quiet_receiving : s.quiet.receiving = s.receiving := rfl
@[simp] theorem quiet_polling : s.quiet.polling = s.polling := rfl
@[simp] theorem quiet_answer : s.quiet.answer = s.answer := rfl
@[simp] theorem quiet_doLevel : s.quiet.doLevel = s.doLevel := rfl
@[simp] theorem quiet_lines : s.quiet.lines = s.lines := rfl
@[simp] theorem offer_frame (r : Request) : (s.offer r).frame = s.frame := rfl
@[simp] theorem offer_inFrame (r : Request) : (s.offer r).inFrame = s.inFrame := rfl
@[simp] theorem offer_inPoll (r : Request) : (s.offer r).inPoll = s.inPoll := rfl
@[simp] theorem offer_sending (r : Request) : (s.offer r).sending = s.sending := rfl
@[simp] theorem offer_receiving (r : Request) : (s.offer r).receiving = s.receiving := rfl
@[simp] theorem offer_polling (r : Request) : (s.offer r).polling = s.polling := rfl
@[simp] theorem offer_answer (r : Request) : (s.offer r).answer = s.answer := rfl
@[simp] theorem offer_doLevel (r : Request) : (s.offer r).doLevel = s.doLevel := rfl
@[simp] theorem offer_lines (r : Request) : (s.offer r).lines = s.lines := rfl
@[simp] theorem latchAddr_inFrame (a : Nat) : (s.latchAddr a).inFrame = s.inFrame := rfl
@[simp] theorem latchAddr_inPoll (a : Nat) : (s.latchAddr a).inPoll = s.inPoll := rfl
@[simp] theorem latchAddr_receiving (a : Nat) : (s.latchAddr a).receiving = s.receiving := rfl
@[simp] theorem latchAddr_polling (a : Nat) : (s.latchAddr a).polling = s.polling := rfl
@[simp] theorem latchAddr_answer (a : Nat) : (s.latchAddr a).answer = s.answer := rfl
@[simp] theorem latchAddr_doLevel (a : Nat) : (s.latchAddr a).doLevel = s.doLevel := rfl
@[simp] theorem latchAddr_lines (a : Nat) : (s.latchAddr a).lines = s.lines := rfl
@[simp] theorem latchWord_inFrame (w : Word) : (s.latchWord w).inFrame = s.inFrame := rfl
@[simp] theorem latchWord_inPoll (w : Word) : (s.latchWord w).inPoll = s.inPoll := rfl
@[simp] theorem latchWord_receiving (w : Word) : (s.latchWord w).receiving = s.receiving := rfl
@[simp] theorem latchWord_polling (w : Word) : (s.latchWord w).polling = s.polling := rfl
@[simp] theorem latchWord_answer (w : Word) : (s.latchWord w).answer = s.answer := rfl
@[simp] theorem latchWord_doLevel (w : Word) : (s.latchWord w).doLevel = s.doLevel := rfl
@[simp] theorem latchWord_lines (w : Word) : (s.latchWord w).lines = s.lines := rfl
@[simp] theorem loadFrame_frame (f : Frame) : (s.loadFrame f).frame = s.frame := rfl
@[simp] theorem loadFrame_inFrame (f : Frame) : (s.loadFrame f).inFrame = s.inFrame := rfl
@[simp] theorem loadFrame_inPoll (f : Frame) : (s.loadFrame f).inPoll = s.inPoll := rfl
@[simp] theorem loadFrame_receiving (f : Frame) : (s.loadFrame f).receiving = s.receiving := rfl
@[simp] theorem loadFrame_polling (f : Frame) : (s.loadFrame f).polling = s.polling := rfl
@[simp] theorem loadFrame_answer (f : Frame) : (s.loadFrame f).answer = s.answer := rfl
@[simp] theorem loadFrame_doLevel (f : Frame) : (s.loadFrame f).doLevel = s.doLevel := rfl
@[simp] theorem loadFrame_lines (f : Frame) : (s.loadFrame f).lines = s.lines := rfl
@[simp] theorem frameSent_frame : s.frameSent.frame = s.frame := rfl
@[simp] theorem frameSent_inFrame : s.frameSent.inFrame = s.inFrame := rfl
@[simp] theorem frameSent_inPoll : s.frameSent.inPoll = s.inPoll := rfl
@[simp] theorem frameSent_receiving : s.frameSent.receiving = s.receiving := rfl
@[simp] theorem frameSent_polling : s.frameSent.polling = s.polling := rfl
@[simp] theorem frameSent_answer : s.frameSent.answer = s.answer := rfl
@[simp] theorem frameSent_doLevel : s.frameSent.doLevel = s.doLevel := rfl
@[simp] theorem frameSent_lines : s.frameSent.lines = s.lines := rfl
@[simp] theorem countTx_frame : s.countTx.frame = s.frame := rfl
@[simp] theorem countTx_inFrame : s.countTx.inFrame = s.inFrame := rfl
@[simp] theorem countTx_inPoll : s.countTx.inPoll = s.inPoll := rfl
@[simp] theorem countTx_receiving : s.countTx.receiving = s.receiving := rfl
@[simp] theorem countTx_polling : s.countTx.polling = s.polling := rfl
@[simp] theorem countTx_answer : s.countTx.answer = s.answer := rfl
@[simp] theorem countTx_doLevel : s.countTx.doLevel = s.doLevel := rfl
@[simp] theorem countTx_lines : s.countTx.lines = s.lines := rfl
@[simp] theorem startReceive_frame : s.startReceive.frame = s.frame := rfl
@[simp] theorem startReceive_inFrame : s.startReceive.inFrame = s.inFrame := rfl
@[simp] theorem startReceive_inPoll : s.startReceive.inPoll = s.inPoll := rfl
@[simp] theorem startReceive_sending : s.startReceive.sending = s.sending := rfl
@[simp] theorem startReceive_polling : s.startReceive.polling = s.polling := rfl
@[simp] theorem startReceive_answer : s.startReceive.answer = s.answer := rfl
@[simp] theorem startReceive_doLevel : s.startReceive.doLevel = s.doLevel := rfl
@[simp] theorem startReceive_lines : s.startReceive.lines = s.lines := rfl
@[simp] theorem clearAcc_frame : s.clearAcc.frame = s.frame := rfl
@[simp] theorem clearAcc_inFrame : s.clearAcc.inFrame = s.inFrame := rfl
@[simp] theorem clearAcc_inPoll : s.clearAcc.inPoll = s.inPoll := rfl
@[simp] theorem clearAcc_sending : s.clearAcc.sending = s.sending := rfl
@[simp] theorem clearAcc_receiving : s.clearAcc.receiving = s.receiving := rfl
@[simp] theorem clearAcc_polling : s.clearAcc.polling = s.polling := rfl
@[simp] theorem clearAcc_answer : s.clearAcc.answer = s.answer := rfl
@[simp] theorem clearAcc_doLevel : s.clearAcc.doLevel = s.doLevel := rfl
@[simp] theorem clearAcc_lines : s.clearAcc.lines = s.lines := rfl
@[simp] theorem shiftIn_frame (b : Bool) : (s.shiftIn b).frame = s.frame := rfl
@[simp] theorem shiftIn_inFrame (b : Bool) : (s.shiftIn b).inFrame = s.inFrame := rfl
@[simp] theorem shiftIn_inPoll (b : Bool) : (s.shiftIn b).inPoll = s.inPoll := rfl
@[simp] theorem shiftIn_sending (b : Bool) : (s.shiftIn b).sending = s.sending := rfl
@[simp] theorem shiftIn_polling (b : Bool) : (s.shiftIn b).polling = s.polling := rfl
@[simp] theorem shiftIn_answer (b : Bool) : (s.shiftIn b).answer = s.answer := rfl
@[simp] theorem shiftIn_doLevel (b : Bool) : (s.shiftIn b).doLevel = s.doLevel := rfl
@[simp] theorem shiftIn_lines (b : Bool) : (s.shiftIn b).lines = s.lines := rfl
@[simp] theorem latchRead_frame : s.latchRead.frame = s.frame := rfl
@[simp] theorem latchRead_inFrame : s.latchRead.inFrame = s.inFrame := rfl
@[simp] theorem latchRead_inPoll : s.latchRead.inPoll = s.inPoll := rfl
@[simp] theorem latchRead_sending : s.latchRead.sending = s.sending := rfl
@[simp] theorem latchRead_receiving : s.latchRead.receiving = s.receiving := rfl
@[simp] theorem latchRead_polling : s.latchRead.polling = s.polling := rfl
@[simp] theorem latchRead_answer : s.latchRead.answer = s.answer := rfl
@[simp] theorem latchRead_doLevel : s.latchRead.doLevel = s.doLevel := rfl
@[simp] theorem latchRead_lines : s.latchRead.lines = s.lines := rfl
@[simp] theorem accept_answer (op : OpCode) : (s.accept op).answer = s.answer := rfl
@[simp] theorem accept_doLevel (op : OpCode) : (s.accept op).doLevel = s.doLevel := rfl
@[simp] theorem accept_lines (op : OpCode) : (s.accept op).lines = s.lines := rfl
@[simp] theorem finish_frame (v : Bool) : (s.finish v).frame = s.frame := rfl
@[simp] theorem finish_inFrame (v : Bool) : (s.finish v).inFrame = s.inFrame := rfl
@[simp] theorem finish_inPoll (v : Bool) : (s.finish v).inPoll = s.inPoll := rfl
@[simp] theorem finish_sending (v : Bool) : (s.finish v).sending = s.sending := rfl
@[simp] theorem finish_receiving (v : Bool) : (s.finish v).receiving = s.receiving := rfl
@[simp] theorem finish_polling (v : Bool) : (s.finish v).polling = s.polling := rfl
@[simp] theorem finish_answer (v : Bool) : (s.finish v).answer = s.answer := rfl
@[simp] theorem finish_doLevel (v : Bool) : (s.finish v).doLevel = s.doLevel := rfl
@[simp] theorem finish_lines (v : Bool) : (s.finish v).lines = s.lines := rfl
@[simp] theorem setRdy_frame (v : Bool) : (s.setRdy v).frame = s.frame := rfl
@[simp] theorem setRdy_inFrame (v : Bool) : (s.setRdy v).inFrame = s.inFrame := rfl
@[simp] theorem setRdy_inPoll (v : Bool) : (s.setRdy v).inPoll = s.inPoll := rfl
@[simp] theorem setRdy_sending (v : Bool) : (s.setRdy v).sending = s.sending := rfl
@[simp] theorem setRdy_receiving (v : Bool) : (s.setRdy v).receiving = s.receiving := rfl
@[simp] theorem setRdy_polling (v : Bool) : (s.setRdy v).polling = s.polling := rfl
@[simp] theorem setRdy_answer (v : Bool) : (s.setRdy v).answer = s.answer := rfl
@[simp] theorem setRdy_doLevel (v : Bool) : (s.setRdy v).doLevel = s.doLevel := rfl
@[simp] theorem setRdy_lines (v : Bool) : (s.setRdy v).lines = s.lines := rfl
@[simp] theorem clearPoll_frame : s.clearPoll.frame = s.frame := rfl
@[simp] theorem clearPoll_inFrame : s.clearPoll.inFrame = s.inFrame := rfl
@[simp] theorem clearPoll_inPoll : s.clearPoll.inPoll = s.inPoll := rfl
@[simp] theorem clearPoll_sending : s.clearPoll.sending = s.sending := rfl
@[simp] theorem clearPoll_receiving : s.clearPoll.receiving = s.receiving := rfl
@[simp] theorem clearPoll_polling : s.clearPoll.polling = s.polling := rfl
@[simp] theorem clearPoll_answer : s.clearPoll.answer = s.answer := rfl
@[simp] theorem clearPoll_doLevel : s.clearPoll.doLevel = s.doLevel := rfl
@[simp] theorem clearPoll_lines : s.clearPoll.lines = s.lines := rfl
@[simp] theorem countPoll_frame : s.countPoll.frame = s.frame := rfl
@[simp] theorem countPoll_inFrame : s.countPoll.inFrame = s.inFrame := rfl
@[simp] theorem countPoll_inPoll : s.countPoll.inPoll = s.inPoll := rfl
@[simp] theorem countPoll_sending : s.countPoll.sending = s.sending := rfl
@[simp] theorem countPoll_receiving : s.countPoll.receiving = s.receiving := rfl
@[simp] theorem countPoll_polling : s.countPoll.polling = s.polling := rfl
@[simp] theorem countPoll_answer : s.countPoll.answer = s.answer := rfl
@[simp] theorem countPoll_doLevel : s.countPoll.doLevel = s.doLevel := rfl
@[simp] theorem countPoll_lines : s.countPoll.lines = s.lines := rfl
@[simp] theorem controlReset_answer : s.controlReset.answer = s.answer := rfl
@[simp] theorem controlReset_doLevel : s.controlReset.doLevel = s.doLevel := rfl
@[simp] theorem controlReset_lines : s.controlReset.lines = s.lines := rfl
@[simp] theorem setDly_frame (n : Nat) : (s.setDly n).frame = s.frame := rfl
@[simp] theorem setDly_inFrame (n : Nat) : (s.setDly n).inFrame = s.inFrame := rfl
@[simp] theorem setDly_inPoll (n : Nat) : (s.setDly n).inPoll = s.inPoll := rfl
@[simp] theorem setDly_sending (n : Nat) : (s.setDly n).sending = s.sending := rfl
@[simp] theorem setDly_receiving (n : Nat) : (s.setDly n).receiving = s.receiving := rfl
@[simp] theorem setDly_polling (n : Nat) : (s.setDly n).polling = s.polling := rfl
@[simp] theorem setDly_answer (n : Nat) : (s.setDly n).answer = s.answer := rfl
@[simp] theorem setDly_doLevel (n : Nat) : (s.setDly n).doLevel = s.doLevel := rfl
@[simp] theorem setDly_lines (n : Nat) : (s.setDly n).lines = s.lines := rfl
@[simp] theorem consumed_frame (n : Nat) : (s.consumed n).frame = s.frame := rfl
@[simp] theorem consumed_inFrame (n : Nat) : (s.consumed n).inFrame = s.inFrame := rfl
@[simp] theorem consumed_inPoll (n : Nat) : (s.consumed n).inPoll = s.inPoll := rfl
@[simp] theorem consumed_sending (n : Nat) : (s.consumed n).sending = s.sending := rfl
@[simp] theorem consumed_receiving (n : Nat) : (s.consumed n).receiving = s.receiving := rfl
@[simp] theorem consumed_polling (n : Nat) : (s.consumed n).polling = s.polling := rfl
@[simp] theorem consumed_lines (n : Nat) : (s.consumed n).lines = s.lines := rfl
@[simp] theorem noTrace_frame : s.noTrace.frame = s.frame := rfl
@[simp] theorem noTrace_inFrame : s.noTrace.inFrame = s.inFrame := rfl
@[simp] theorem noTrace_inPoll : s.noTrace.inPoll = s.inPoll := rfl
@[simp] theorem noTrace_sending : s.noTrace.sending = s.sending := rfl
@[simp] theorem noTrace_receiving : s.noTrace.receiving = s.receiving := rfl
@[simp] theorem noTrace_polling : s.noTrace.polling = s.polling := rfl
@[simp] theorem noTrace_answer : s.noTrace.answer = s.answer := rfl
@[simp] theorem noTrace_doLevel : s.noTrace.doLevel = s.doLevel := rfl
@[simp] theorem noTrace_lines : s.noTrace.lines = s.lines := rfl

end Sys2Proof.Machine.State
end

