-- ==== Sys2Proof/Laws/Trace.lean ====
section
/-! SUPPORT. Lemmas about line states, pin traces and the event traces of the rules. -/

namespace Sys2Proof.Machine

theorem Lines.afterAll_append (l : Lines) (t u : List Event) :
    l.afterAll (t ++ u) = (l.afterAll t).afterAll u := List.foldl_append

@[simp] theorem Lines.afterAll_nil (l : Lines) : l.afterAll [] = l := rfl

@[simp] theorem Lines.afterAll_cons (l : Lines) (e : Event) (t : List Event) :
    l.afterAll (e :: t) = (l.after e).afterAll t := rfl

/-- A redundant drive leaves the line state as it is (R10). -/
theorem Lines.after_of_redundant {l : Lines} {e : Event} (h : e.redundant l = true) : l.after e = l := by
  cases l; cases e <;> simp_all [Event.redundant, Lines.after]

/-- The pin trace of two traces one after the other (R10). -/
theorem pinTrace_append (l : Lines) (t u : List Event) :
    pinTrace l (t ++ u) = pinTrace l t ++ pinTrace (l.afterAll t) u := by
  induction t generalizing l with
  | nil => rfl
  | cons e t ih =>
    by_cases h : e.redundant l = true
    · simp [pinTrace, h, ih, Lines.after_of_redundant h]
    · simp [pinTrace, h, ih]

/-- The pin trace leads to the same line state as the event trace (R10). -/
theorem Lines.afterAll_pinTrace (l : Lines) (t : List Event) :
    l.afterAll (pinTrace l t) = l.afterAll t := by
  induction t generalizing l with
  | nil => rfl
  | cons e t ih =>
    by_cases h : e.redundant l = true
    · simp [pinTrace, h, ih, Lines.after_of_redundant h]
    · simp [pinTrace, h, ih]

theorem samplesOf_append (t u : List Event) : samplesOf (t ++ u) = samplesOf t ++ samplesOf u := by
  induction t with
  | nil => rfl
  | cons e t ih => cases e <;> simp [samplesOf, ih]

theorem bitsTaken_append (l : Lines) (t u : List Event) :
    bitsTaken l (t ++ u) = bitsTaken l t ++ bitsTaken (l.afterAll t) u := by
  induction t generalizing l with
  | nil => rfl
  | cons e t ih => simp only [List.cons_append, bitsTaken, Lines.afterAll_cons, ih]; split <;> simp

theorem delaysOf_append (t u : List Event) : delaysOf (t ++ u) = delaysOf t + delaysOf u :=
  List.countP_append

/-- No rise waits for its fall where the clock is inactive, so a trace split there has the pulses of its
parts. -/
theorem clockPulses_pinTrace_append (l : Lines) (t u : List Event) (risen : Bool)
    (hr : risen = true → l.sk = true) (hu : (l.afterAll t).sk = false) :
    clockPulses risen (pinTrace l (t ++ u)) =
      clockPulses risen (pinTrace l t) + clockPulses false (pinTrace (l.afterAll t) u) := by
  induction t generalizing l risen with
  | nil => cases risen <;> simp_all [pinTrace, clockPulses]
  | cons e t ih =>
    by_cases he : e.redundant l = true
    · simpa [pinTrace, he, Lines.after_of_redundant he] using
        ih l risen hr (by simpa [Lines.after_of_redundant he] using hu)
    · have key := fun r (h : r = true → (l.after e).sk = true) => ih (l.after e) r h hu
      cases e with
      | sk b =>
        have := key b (by simp [Lines.after])
        cases b <;> simpa [pinTrace, he, clockPulses, Nat.add_assoc] using this
      | cs b | di b | dly | smp b =>
        simpa [pinTrace, he, clockPulses] using key risen (by simpa [Lines.after] using hr)

/-- The pulses of two traces one after the other, the clock inactive between them (R9). -/
theorem pulsesOf_append {l : Lines} {t : List Event} (u : List Event) (h : (l.afterAll t).sk = false) :
    pulsesOf l (t ++ u) = pulsesOf l t + pulsesOf (l.afterAll t) u :=
  clockPulses_pinTrace_append l t u false (by simp) h

@[simp] theorem msbFirst_length {w : Nat} (v : BitVec w) (n : Nat) : (msbFirst v n).length = n := by
  induction n with
  | zero => rfl
  | succ n ih => simp [msbFirst, ih]

/-- The line state after one sent bit (R100). -/
@[simp] theorem Lines.afterAll_bitEvents (l : Lines) (b : Bool) :
    l.afterAll (bitEvents b) = { l with sk := true, di := b } := rfl

/-- One bit sent while selected is taken by the device as that bit (R100, R152 b). -/
theorem bitsTaken_bitEvents (l : Lines) (b : Bool) (h : l.cs = true) :
    bitsTaken l (bitEvents b) = [b] := by
  cases l; simp_all [bitEvents, bitsTaken, Lines.after]

/-- The line state after the pieces of some sent bits (R100). -/
theorem Lines.afterAll_bits (l : Lines) (bs : List Bool) :
    l.afterAll (bs.flatMap bitEvents) =
      { l with sk := l.sk || !bs.isEmpty, di := bs.getLast?.getD l.di } := by
  induction bs generalizing l with
  | nil => simp
  | cons b bs ih =>
    rw [List.flatMap_cons, Lines.afterAll_append, ih]
    cases bs with
    | nil => simp
    | cons c bs => rw [List.getLast?_cons_cons, List.getLast?_cons]; simp

/-- Bits sent while selected are taken as sent (R61, R100). -/
theorem bitsTaken_bits (l : Lines) (bs : List Bool) (h : l.cs = true) :
    bitsTaken l (bs.flatMap bitEvents) = bs := by
  induction bs generalizing l with
  | nil => rfl
  | cons b bs ih =>
    rw [List.flatMap_cons, bitsTaken_append, bitsTaken_bitEvents l b h, ih _ (by simpa using h)]
    rfl

theorem msbFirst_getLast? {w : Nat} (v : BitVec w) (n : Nat) :
    (msbFirst v (n + 1)).getLast? = some (v.getLsbD 0) := by
  induction n with
  | zero => rfl
  | succ n ih => rw [msbFirst, List.getLast?_cons, ih]; rfl

/-- The line state after `transmit-bits` (R100): the clock inactive, `DI` at the last bit sent. -/
theorem Lines.afterAll_txEvents (l : Lines) (v : Word) (c : Nat) :
    l.afterAll (txEvents v c) = { l with sk := false, di := if c = 0 then l.di else v.getLsbD 0 } := by
  rw [txEvents, Lines.afterAll_append, Lines.afterAll_bits]
  cases c with
  | zero => simp [msbFirst, Lines.after]
  | succ n => simp [msbFirst_getLast?, Lines.after]

/-- The bits `transmit-bits` gives a selected device (R100). -/
theorem bitsTaken_txEvents (l : Lines) (v : Word) (c : Nat) (h : l.cs = true) :
    bitsTaken l (txEvents v c) = msbFirst v c := by
  rw [txEvents, bitsTaken_append, bitsTaken_bits l _ h]
  simp [bitsTaken]

end Sys2Proof.Machine
end

