-- ==== Sys2Proof/Laws/Transport.lean ====
section
/-! SUPPORT. One equation per shared operation of the transport and the poll: everything it does to the state. -/

namespace Sys2Proof.Machine

/-! ## Samples -/

/-- The answers depend on the environment's two fields only. -/
theorem State.answer_congr {s t : State} (h1 : s.doAnswers = t.doAnswers) (h2 : s.smpCount = t.smpCount) :
    s.answer = t.answer := by
  funext k; simp [State.answer, h1, h2]

@[simp] theorem State.consumed_answer (s : State) (n k : Nat) : (s.consumed n).answer k = s.answer (n + k) := by
  simp [State.answer, List.getElem?_drop, Nat.add_assoc]

@[simp] theorem State.consumed_zero (s : State) : s.consumed 0 = s := by simp [State.consumed]

theorem State.consumed_consumed (s : State) (m n : Nat) : (s.consumed m).consumed n = s.consumed (m + n) := by
  simp [State.consumed, List.drop_drop, Nat.add_assoc]

/-- One sample: an event, and the environment moved on by one (R11). -/
theorem State.sampled_eq (s : State) :
    s.sampled = { s.consumed 1 with trace := s.trace ++ [.smp s.doLevel] } := rfl

theorem State.answers_succ (s : State) (n : Nat) :
    s.answers (n + 1) = s.doLevel :: (s.consumed 1).answers n := by
  simp only [State.answers, List.range_succ_eq_map, List.map_cons, List.map_map, State.doLevel]
  congr 1
  apply List.map_congr_left
  intro k _
  simp [Nat.add_comm]

@[simp] theorem State.answers_length (s : State) (n : Nat) : (s.answers n).length = n := by
  simp [State.answers]

/-! ## Sending -/

/-- The loop of `transmit-bits` (R100). -/
theorem txLoop_eq (v : Word) (c : Nat) (s : State) :
    txLoop v c s = { s with
      sk := s.sk || !decide (c = 0)
      di := if c = 0 then s.di else v.getLsbD 0
      trace := s.trace ++ (msbFirst v c).flatMap bitEvents } := by
  induction c generalizing s with
  | zero => simp [txLoop, msbFirst]
  | succ c ih =>
    rw [txLoop, ih]
    cases c <;>
      simp [State.txBit1, State.driveSk, State.driveDi, State.delay, msbFirst, bitEvents]

/-- `transmit-bits` (R100): its events, the clock inactive, `DI` at the last bit, nothing else. -/
theorem transmitBits_eq (v : Word) (c : Nat) (s : State) :
    transmitBits v c s = { s with
      sk := false
      di := if c = 0 then s.di else v.getLsbD 0
      trace := s.trace ++ txEvents v c } := by
  simp [transmitBits, txLoop_eq, State.driveSk, txEvents]

/-- The last bit of a frame, the level it leaves on `DI` (R100). -/
def lastBit : Frame → Bool
  | .ewen | .ewds => false
  | .read a => a.getLsbD 0
  | .write _ d => d.getLsbD 0

/-- `CS(1)` and a frame (R111, R112, R120, R121): its events, the lines, the transport registers. -/
theorem sendFrame_eq (f : Frame) (s : State) :
    sendFrame f s = { s with
      cs := true, sk := false, di := lastBit f, txsr := f.value, txcnt := 0
      trace := s.trace ++ .cs true :: groupEvents f } := by
  cases f <;>
    simp [sendFrame, Frame.groups, sendGroups, transmitBits_eq, State.driveCs, State.loadFrame,
      State.frameSent, groupEvents, lastBit]

/-- A whole transaction that sends a frame (R111, R112, R121). -/
theorem transaction_eq (f : Frame) (s : State) :
    (sendFrame f s).closeTransaction = { s with
      cs := false, sk := false, di := false, txsr := f.value, txcnt := 0
      trace := s.trace ++ transactionEvents f } := by
  simp [sendFrame_eq, State.closeTransaction, State.driveCs, State.driveDi, transactionEvents]

/-! ## Receiving -/

theorem natOfBits_snoc (bs : List Bool) (b : Bool) : natOfBits (bs ++ [b]) = 2 * natOfBits bs + b.toNat := by
  simp [natOfBits]

/-- One receive shift doubles the accumulator and adds the bit, within 16 bits (R12 c). -/
theorem rxShift_ofNat (n : Nat) (b : Bool) :
    rxShift (BitVec.ofNat 16 n) b = BitVec.ofNat 16 (2 * n + b.toNat) := by
  apply BitVec.eq_of_toNat_eq
  have h : rxShift (BitVec.ofNat 16 n) b = BitVec.ofNat 16 n + BitVec.ofNat 16 n + BitVec.ofNat 16 b.toNat := by
    have key : ∀ (x : BitVec 16), rxShift x b = x + x + BitVec.ofNat 16 b.toNat := by
      intro x
      have h2 : x <<< 1 = x + x := by
        apply BitVec.eq_of_toNat_eq; simp [BitVec.toNat_shiftLeft, Nat.shiftLeft_eq]; omega
      rw [← h2, rxShift]
      have hd : x <<< 1 &&& (BitVec.ofNat 16 b.toNat) = 0#16 := by
        ext i hi
        cases b
        · simp
        · cases i <;> simp
      cases b
      · simp
      · exact (BitVec.add_eq_or_of_and_eq_zero _ _ (by simpa using hd)).symm
    exact key _
  rw [h]
  simp [BitVec.toNat_add, Nat.two_mul]

/-- The loop of `receive-word` (R103), from an accumulator that holds `m`. -/
theorem rxLoop_eq (n : Nat) (s : State) (m : Nat) (h : s.rxacc = BitVec.ofNat 16 m) :
    rxLoop n s = { s.consumed n with
      sk := s.sk && decide (n = 0)
      rxacc := BitVec.ofNat 16 ((s.answers n).foldl (fun a b => 2 * a + b.toNat) m)
      rxcnt := s.rxcnt - BitVec.ofNat 5 n
      trace := s.trace ++ (s.answers n).flatMap rxBitEvents } := by
  induction n generalizing s m with
  | zero => cases s; simp_all [rxLoop, State.answers, State.consumed]
  | succ n ih =>
    have hl : ((((s.driveSk true).delay).driveSk false).delay).doLevel = s.doLevel := rfl
    rw [rxLoop, ih s.rxBit1 (2 * m + s.doLevel.toNat)
      (by simp [State.rxBit1, hl, h, rxShift_ofNat])]
    have ha : s.rxBit1.answers n = (s.consumed 1).answers n := rfl
    have hc : s.rxcnt - 1#5 - BitVec.ofNat 5 n = s.rxcnt - BitVec.ofNat 5 (n + 1) := by
      apply BitVec.eq_of_toNat_eq; simp [BitVec.toNat_sub]; omega
    rw [ha, State.answers_succ]
    simp [State.rxBit1, State.driveSk, State.delay, State.sampled, State.shiftIn, State.consumed,
      rxBitEvents, hc, Nat.add_comm, Nat.add_left_comm, State.doLevel, State.answer]

/-- `receive-word` (R103): sixteen samples, the first as bit 15, into `RXACC`. -/
theorem receiveWord_eq (s : State) :
    receiveWord s = { s.consumed 16 with
      sk := false, di := false
      rxacc := wordOfSamples (s.answers 16), rxcnt := 0
      trace := s.trace ++ rxEvents (s.answers 16) } := by
  rw [receiveWord, rxLoop_eq 16 _ 0 (by rfl)]
  have ha : ((s.driveDi false).clearAcc.startReceive).answers 16 = s.answers 16 := rfl
  rw [ha]
  simp [State.driveDi, State.clearAcc, State.startReceive, State.consumed, wordOfSamples, natOfBits, rxEvents]

/-! ## Polling -/

theorem State.firstReady_succ (s : State) (n : Nat) :
    s.firstReady (n + 1) = if s.doLevel then some 0 else ((s.consumed 1).firstReady n).map (· + 1) := by
  have hk : (s.answer ∘ Nat.succ) = (s.consumed 1).answer := by
    funext k; simp [Nat.add_comm]
  simp only [State.firstReady, List.range_succ_eq_map]
  by_cases h : s.doLevel = true
  · rw [if_pos h, List.find?_cons_of_pos (p := s.answer) h]
  · rw [if_neg h, List.find?_cons_of_neg (p := s.answer) h, List.find?_map, hk]

theorem State.firstReady_succ_ready {s : State} {n : Nat} (h : s.doLevel = true) :
    s.firstReady (n + 1) = some 0 := by rw [State.firstReady_succ, if_pos h]

theorem State.firstReady_succ_notReady {s : State} {n : Nat} (h : s.doLevel = false) :
    s.firstReady (n + 1) = ((s.consumed 1).firstReady n).map (· + 1) := by
  rw [State.firstReady_succ, if_neg (by simp [h])]

/-- One not-ready iteration of `wait_ready` (R130). -/
def State.notReady (s : State) : State := ((s.driveSk true).sampled.driveSk false).countPoll

theorem State.notReady_eq (s : State) (h : s.doLevel = false) :
    s.notReady = { s.consumed 1 with
      sk := false, pollcnt := s.pollcnt + 1, trace := s.trace ++ notReadyEvents } := by
  have hl : (s.driveSk true).doLevel = false := h
  ext1 <;> simp [State.notReady, hl, notReadyEvents]

/-- How a poll loop ends: with the ready pulse, or at the ceiling (R130). -/
def pollTail : Option Nat → List Event
  | some _ => [.sk true, .smp true, .sk false, .cs false]
  | none => [.cs false]

/-- The loop of `wait_ready` (R130) with `n` iterations left before the ceiling. -/
theorem pollLoop_eq (n : Nat) (s : State) :
    pollLoop n s = { s.consumed (s.pollSamples n) with
      cs := false
      sk := s.sk && decide (n = 0)
      pollcnt := s.pollcnt + BitVec.ofNat 16 ((s.firstReady n).getD n)
      rdy := (s.firstReady n).isSome
      trace := s.trace ++ (List.replicate ((s.firstReady n).getD n) notReadyEvents).flatten ++
        pollTail (s.firstReady n) } := by
  induction n generalizing s with
  | zero => ext1 <;> simp [pollLoop, State.firstReady, State.pollSamples, pollTail]
  | succ n ih =>
    have hl : (s.driveSk true).doLevel = s.doLevel := rfl
    rw [pollLoop]
    cases hb : s.doLevel
    · have h1 := State.firstReady_succ_notReady (n := n) hb
      have h2 : s.pollSamples (n + 1) = (s.consumed 1).pollSamples n + 1 := by
        simp only [State.pollSamples, h1]
        cases (s.consumed 1).firstReady n <;> rfl
      have hf : s.notReady.firstReady n = (s.consumed 1).firstReady n := rfl
      have hp : s.notReady.pollSamples n = (s.consumed 1).pollSamples n := rfl
      have hs : ∀ k, (BitVec.ofNat 16 (k + 1) : BitVec 16) = 1 + BitVec.ofNat 16 k := by
        intro k; rw [Nat.add_comm, BitVec.ofNat_add]; rfl
      rw [hl, if_neg (by simp [hb])]
      change pollLoop n s.notReady = _
      rw [ih, hf, hp, h1, h2]
      cases hr : (s.consumed 1).firstReady n with
      | none =>
        ext1 <;> simp [State.notReady_eq s hb, pollTail, List.replicate_succ, hs n, BitVec.add_assoc]
        omega
      | some k =>
        ext1 <;> simp [State.notReady_eq s hb, pollTail, List.replicate_succ, hs k, BitVec.add_assoc]
        omega
    · have h1 := State.firstReady_succ_ready (n := n) hb
      have h2 : s.pollSamples (n + 1) = 1 := by simp [State.pollSamples, h1]
      have hl' : (s.driveSk true).doLevel = true := hb
      rw [hl, if_pos hb, h1, h2]
      ext1 <;> simp [pollTail, hl']

/-- `wait_ready` (R130): its events, the lines idle, the count, and the result. -/
theorem waitReady_eq (s : State) :
    waitReady s = { s.consumed (s.pollSamples s.params.pollCeiling.toNat) with
      cs := false, sk := false, di := false
      pollcnt := BitVec.ofNat 16 ((s.firstReady s.params.pollCeiling.toNat).getD s.params.pollCeiling.toNat)
      rdy := (s.firstReady s.params.pollCeiling.toNat).isSome
      trace := s.trace ++ s.pollEvents s.params.pollCeiling.toNat } := by
  have hf : ∀ n, ((((s.driveDi false).driveSk false).driveCs true).clearPoll).firstReady n
      = s.firstReady n := fun _ => rfl
  have hp : ∀ n, ((((s.driveDi false).driveSk false).driveCs true).clearPoll).pollSamples n
      = s.pollSamples n := fun _ => rfl
  rw [waitReady, pollLoop_eq, hf, hp]
  ext1 <;> simp [State.pollEvents]
  cases s.firstReady s.params.pollCeiling.toNat <;> simp [pollTail, readyEvents, timeoutEvents]

end Sys2Proof.Machine
end

