-- ==== Sys2Proof/Laws/Decode.lean ====
section
/-! SUPPORT. Lemmas about request codes, packets, and bits most significant first. -/

namespace Sys2Proof

@[simp] theorem OpCode.ofCode_code (c : OpCode) : OpCode.ofCode c.code = c := by cases c <;> rfl

@[simp] theorem OpCode.code_ofCode (b : BitVec 3) : (OpCode.ofCode b).code = b := by
  revert b; decide

/-! ## Packets -/

/-- Bytes of a number, read back (log 6). -/
theorem natOfBytes_bytesOfNat (n a : Nat) : natOfBytes (bytesOfNat n a) = a % 256 ^ n := by
  induction n generalizing a with
  | zero => simp [bytesOfNat, natOfBytes, Nat.mod_one]
  | succ n ih =>
    rw [bytesOfNat, natOfBytes, ih, BitVec.toNat_ofNat, show 256 ^ (n + 1) = 256 * 256 ^ n by ring, Nat.mod_mul]

/-- A request that fits on the port is read back from its packet (R33; log 6). -/
theorem parsePacket_packRequest {p : Params} {r : Request} (h : r.fits p = true) :
    parsePacket p (packRequest p r) = .ok r := by
  obtain ⟨op, addr, w⟩ := r
  simp only [Request.fits, decide_eq_true_eq] at h
  have hop : op.toNat < 8 := op.isLt
  have haddr : natOfBytes (bytesOfNat (addrBytes p) addr) = addr := by
    rw [natOfBytes_bytesOfNat, Nat.mod_eq_of_lt]
    refine lt_of_lt_of_le h ?_
    rw [show (256 : Nat) = 2 ^ 8 from rfl, ← Nat.pow_mul]
    exact Nat.pow_le_pow_right (by decide) (by unfold addrBytes; omega)
  have hw : w.extractLsb' 8 8 ++ w.extractLsb' 0 8 = w := by
    apply BitVec.eq_of_getLsbD_eq
    intro i hi
    rw [BitVec.getLsbD_append, BitVec.getLsbD_extractLsb', BitVec.getLsbD_extractLsb']
    by_cases h8 : i < 8
    · simp [h8]
    · have h9 : i - 8 < 8 := by omega
      simp only [h8, if_false, h9, decide_true, Bool.true_and]
      exact congrArg _ (by omega)
  simp only [packRequest, parsePacket, haddr, hw]
  rw [if_neg (by simp; omega), if_neg (by omega)]
  congr 1
  simp only [Request.mk.injEq, and_true]
  apply BitVec.eq_of_toNat_eq
  simp
  omega

/-! ## Bits, most significant first (R61) -/

theorem natOfBits_foldl (bs : List Bool) (m : Nat) :
    bs.foldl (fun n b => 2 * n + b.toNat) m = m * 2 ^ bs.length + natOfBits bs := by
  induction bs generalizing m with
  | nil => simp [natOfBits]
  | cons b bs ih =>
    have h0 := ih (2 * 0 + b.toNat)
    rw [natOfBits, List.foldl_cons, List.foldl_cons, ih, h0, List.length_cons, Nat.pow_succ]
    ring

theorem natOfBits_cons (b : Bool) (bs : List Bool) :
    natOfBits (b :: bs) = b.toNat * 2 ^ bs.length + natOfBits bs := by
  rw [natOfBits, List.foldl_cons, natOfBits_foldl]; simp

theorem natOfBits_lt (bs : List Bool) : natOfBits bs < 2 ^ bs.length := by
  induction bs with
  | nil => decide
  | cons b bs ih =>
    rw [natOfBits_cons, List.length_cons, Nat.pow_succ]
    cases b <;> simp <;> omega

/-- A value read back from its bits. -/
theorem natOfBits_msbFirst {w : Nat} (v : BitVec w) (n : Nat) : natOfBits (msbFirst v n) = v.toNat % 2 ^ n := by
  induction n with
  | zero => simp [msbFirst, natOfBits, Nat.mod_one]
  | succ n ih =>
    rw [msbFirst, natOfBits_cons, ih, Machine.msbFirst_length, Nat.pow_succ, Nat.mod_mul, BitVec.getLsbD,
      Nat.testBit_eq_decide_div_mod_eq]
    rcases Nat.mod_two_eq_zero_or_one (v.toNat / 2 ^ n) with h | h <;> simp [h]
    omega

/-- Bits read back from the value they spell. -/
theorem msbFirst_natOfBits (w : Nat) (bs : List Bool) (m : Nat) (h : bs.length ≤ w) :
    msbFirst (BitVec.ofNat w (m * 2 ^ bs.length + natOfBits bs)) bs.length = bs := by
  induction bs generalizing m with
  | nil => rfl
  | cons b bs ih =>
    have hx : m * 2 ^ (b :: bs).length + natOfBits (b :: bs) =
        (2 * m + b.toNat) * 2 ^ bs.length + natOfBits bs := by
      rw [natOfBits_cons, List.length_cons, Nat.pow_succ]; ring
    have hw : bs.length < w := by simp at h; omega
    rw [hx, List.length_cons, msbFirst, ih (2 * m + b.toNat) (by omega)]
    congr 1
    rw [BitVec.getLsbD_ofNat, Nat.testBit_eq_decide_div_mod_eq, Nat.add_comm,
      Nat.add_mul_div_right _ _ (Nat.two_pow_pos _), Nat.div_eq_of_lt (natOfBits_lt bs)]
    cases b <;> simp [hw]

end Sys2Proof
end

