-- ==== Sys2Proof/Laws/PerInstr.lean ====
section
/-! SUPPORT. One lemma per constructor of Instr: the request of an instruction decodes to it, and fits on the port where the instruction is well-formed. -/

namespace Sys2Proof.Laws.RequestRoundTrip

/-- The request that stands for an instruction, where there is one, decodes to it, and fits on the port if
the instruction's operands are in range (R33, R88). -/
def Statement (i : Instr) : Prop :=
  ∀ r, encodeRequest i = some r →
    decodeRequest r = i ∧ ∀ p : Params, 6 ≤ p.addrInW → i.wellFormed p = true → r.fits p = true

/-- A request with address operand 0 fits on any port. -/
theorem fits_zero (p : Params) (op : BitVec 3) (w : Word) : Request.fits p ⟨op, 0, w⟩ = true := by
  simp [Request.fits]

theorem init : Statement .init := by
  rintro r ⟨⟩; exact ⟨rfl, fun p _ _ => fits_zero p _ _⟩

theorem ewen : Statement .ewen := by
  rintro r ⟨⟩; exact ⟨rfl, fun p _ _ => fits_zero p _ _⟩

theorem ewds : Statement .ewds := by
  rintro r ⟨⟩; exact ⟨rfl, fun p _ _ => fits_zero p _ _⟩

theorem waitrdy : Statement .waitrdy := by
  rintro r ⟨⟩; exact ⟨rfl, fun p _ _ => fits_zero p _ _⟩

theorem reserved6 : Statement .reserved6 := by
  rintro r ⟨⟩; exact ⟨rfl, fun p _ _ => fits_zero p _ _⟩

theorem reserved7 : Statement .reserved7 := by
  rintro r ⟨⟩; exact ⟨rfl, fun p _ _ => fits_zero p _ _⟩

theorem read (address : Nat) : Statement (.read address) := by
  rintro r ⟨⟩; exact ⟨rfl, fun _ _ h => h⟩

theorem write (address : Nat) (word : Word) : Statement (.write address word) := by
  rintro r ⟨⟩; exact ⟨rfl, fun _ _ h => h⟩

theorem txbits (value : Word) (count : Nat) : Statement (.txbits value count) := by rintro r ⟨⟩

theorem txaddr (address : Nat) : Statement (.txaddr address) := by rintro r ⟨⟩

theorem txword (word : Word) : Statement (.txword word) := by rintro r ⟨⟩

theorem rxword : Statement .rxword := by rintro r ⟨⟩

theorem erase : Statement .erase := by rintro r ⟨⟩

theorem eral : Statement .eral := by rintro r ⟨⟩

theorem wral : Statement .wral := by rintro r ⟨⟩

theorem mlread : Statement .mlread := by rintro r ⟨⟩

theorem mlwrite : Statement .mlwrite := by rintro r ⟨⟩

theorem eepTest : Statement .eepTest := by rintro r ⟨⟩

theorem checkrdy : Statement .checkrdy := by rintro r ⟨⟩

theorem eepEnd : Statement .eepEnd := by rintro r ⟨⟩

end Sys2Proof.Laws.RequestRoundTrip
end

