-- ==== Sys2Proof/Laws/Sequencer.lean ====
section
/-! SUPPORT. The sequencer row by row (R31), and what every step of it leaves alone. -/

namespace Sys2Proof.Machine

variable {s t : State}

/-! ## The rows of R31 -/

theorem tick_i0 (h : s.step = .i0) :
    tick s = (s.driveCs false).goOn .i1 := by rw [tick, h]

theorem tick_i1 (h : s.step = .i1) :
    tick s = (s.driveSk false).goOn .i2 := by rw [tick, h]

theorem tick_i2 (h : s.step = .i2) :
    tick s = .next ((s.driveDi false).finish true) := by rw [tick, h]

theorem tick_f0 {f : Frame} (h : s.step = .f0) (hf : s.frame = some f) :
    tick s = ((s.driveCs true).loadFrame f).goOn .t0 := by rw [tick, h]; simp [hf]

theorem tick_t0 (h : s.step = .t0) :
    tick s = (s.driveSk false).goOn .t1 := by rw [tick, h]

theorem tick_t1 (h : s.step = .t1) :
    tick s = s.delay.goOn .t2 := by rw [tick, h]

theorem tick_t2 (h : s.step = .t2) :
    tick s =
      if s.txcnt = 0 ∨ 25 < s.txcnt.toNat then .fault .offTable
      else (s.driveDi s.txBit).goOn .t3 := by rw [tick, h]

theorem tick_t3 (h : s.step = .t3) :
    tick s = s.delay.goOn .t4 := by rw [tick, h]

theorem tick_t4 (h : s.step = .t4) :
    tick s = (s.driveSk true).goOn .t5 := by rw [tick, h]

theorem tick_t5 (h : s.step = .t5) :
    tick s =
      if s.txcnt = 0 then .fault .offTable
      else s.delay.countTx.goOn (if s.txcnt - 1 = 0 then .t6 else .t0) := by rw [tick, h]

theorem tick_t6 (h : s.step = .t6) :
    tick s = (s.driveSk false).goOn (if s.opr = .read then .x0 else .e0) := by rw [tick, h]

theorem tick_x0 (h : s.step = .x0) :
    tick s = (s.driveDi false).startReceive.goOn .x1 := by rw [tick, h]

theorem tick_x1 (h : s.step = .x1) :
    tick s = (s.driveSk true).goOn .x2 := by rw [tick, h]

theorem tick_x2 (h : s.step = .x2) :
    tick s = s.delay.goOn .x3 := by rw [tick, h]

theorem tick_x3 (h : s.step = .x3) :
    tick s = (s.driveSk false).goOn .x4 := by rw [tick, h]

theorem tick_x4 (h : s.step = .x4) :
    tick s = s.delay.goOn .x5 := by rw [tick, h]

theorem tick_x5 (h : s.step = .x5) :
    tick s =
      if s.rxcnt = 0 then .fault .offTable
      else (s.sampled.shiftIn s.doLevel).goOn (if s.rxcnt - 1 = 0 then .e0 else .x1) := by rw [tick, h]

theorem tick_e0 (h : s.step = .e0) :
    tick s = (s.driveCs false).goOn .e1 := by rw [tick, h]

theorem tick_e1 (h : s.step = .e1) :
    tick s = (s.driveDi false).endRow := by rw [tick, h]

theorem tick_w0 (h : s.step = .w0) :
    tick s = (s.driveDi false).goOn .w1 := by rw [tick, h]

theorem tick_w1 (h : s.step = .w1) :
    tick s = (s.driveSk false).goOn .w2 := by rw [tick, h]

theorem tick_w2 (h : s.step = .w2) :
    tick s = (s.driveCs true).clearPoll.goOn (if s.params.pollCeiling = 0 then .w8 else .w3) := by rw [tick, h]

theorem tick_w3 (h : s.step = .w3) :
    tick s = (s.driveSk true).goOn .w4 := by rw [tick, h]

theorem tick_w4 (h : s.step = .w4) :
    tick s = s.sampled.goOn (if s.doLevel then .w6 else .w5) := by rw [tick, h]

theorem tick_w5 (h : s.step = .w5) :
    tick s = (s.driveSk false).countPoll.goOn (if s.pollcnt + 1 = s.params.pollCeiling then .w8 else .w3) := by rw [tick, h]

theorem tick_w6 (h : s.step = .w6) :
    tick s = (s.driveSk false).goOn .w7 := by rw [tick, h]

theorem tick_w7 (h : s.step = .w7) :
    tick s = (s.driveCs false).pollEndRow true := by rw [tick, h]

theorem tick_w8 (h : s.step = .w8) :
    tick s = (s.driveCs false).pollEndRow false := by rw [tick, h]

/-- The row `IDLE` with nothing to take. -/
theorem tick_idle_none (h : s.step = .idle) (hf : s.fetch = none) : tick s = .next s.quiet := by
  rw [tick, h]; simp [hf]

/-- The row `IDLE` with a request. -/
theorem tick_idle_some {r : Request} {s1 : State} (h : s.step = .idle) (hf : s.fetch = some (r, s1)) :
    tick s = .next (s1.acceptRow r) := by
  rw [tick, h]; simp [hf]

/-- A ready block takes the host's next request (R33, R40). -/
theorem fetch_ready {r : Request} {rest : List Request} (h : s.ready) (hq : s.hostQueue = r :: rest) :
    s.fetch = some (r, { s with hostQueue := rest }) := by
  simp [State.fetch, State.reqReady, h.1, h.2, hq]

/-- What is taken is the head of the host's list, and nothing else changes. -/
theorem fetch_eq_some {r : Request} {s1 : State} (h : s.fetch = some (r, s1)) :
    s.ready ∧ ∃ rest, s.hostQueue = r :: rest ∧ s1 = { s with hostQueue := rest } := by
  unfold State.fetch at h
  split at h
  · rename_i hc
    split at h
    · simp at h
    · rename_i r' rest hq
      simp only [Option.some.injEq, Prod.mk.injEq] at h
      obtain ⟨rfl, rfl⟩ := h
      exact ⟨⟨hc.1, by simpa [State.reqReady] using hc.2⟩, rest, hq, rfl⟩
  · simp at h

/-! ## Runs -/

theorem runTicks_succ (n : Nat) (h : tick s = .next t) : runTicks (n + 1) s = runTicks n t := by
  rw [runTicks, h]

/-- Two runs one after the other. -/
theorem runTicks_add {m n : Nat} (h : runTicks m s = .next t) : runTicks (m + n) s = runTicks n t := by
  induction m generalizing s with
  | zero => cases h; rw [Nat.zero_add]
  | succ m ih =>
    rw [Nat.succ_add, runTicks]
    rw [runTicks] at h
    cases ht : tick s with
    | next u => rw [ht] at h; exact ih h
    | fault r => rw [ht] at h; cases h
    | refused r => rw [ht] at h; cases h

end Sys2Proof.Machine
end

