-- ==== Sys2Proof/Tests/Slice0.lean ====
section
/-! SUPPORT. The model's own tests, and for every statement with hypotheses a state and operands that meet them. Expected values are from 95_test_vectors.md (V, P) and the rules named. -/

namespace Sys2Proof.Tests

open Sys2Proof Sys2Proof.Machine

/-- A small state: idle lines, `POLL_CEILING` 3, some answers of the device, some requests of the host. -/
def demo (answers : List Bool) (requests : List Request) : State :=
  { State.reset with
    cs := false, sk := false, di := false
    params := { pollCeiling := 3, addrInW := 8, delayCycles := 2, csActiveLevel := true }
    hostQueue := requests, doAnswers := answers }

/-- The next state of an outcome. -/
def after (o : Host.Outcome State Fault Refusal) : State :=
  match o with
  | .next t => t
  | .fault _ | .refused _ => demo [] []

/-- An outcome that is a next state is that next state. -/
theorem next_after {o : Host.Outcome State Fault Refusal} (h : isNext o = true) : o = .next (after o) := by
  cases o with
  | next t => rfl
  | fault r => cases h
  | refused r => cases h

/-- The bits of `0x1234`, most significant first. -/
def bits1234 : List Bool :=
  [false, false, false, true, false, false, true, false, false, false, true, true, false, true, false, false]

/-! ## Well-formedness: an ill-formed term for each check -/

theorem test_illFormed_read : Instr.wellFormed Config.defaultParams (.read 256) = false := by decide

theorem test_illFormed_write : Instr.wellFormed Config.defaultParams (.write 256 0) = false := by decide

theorem test_illFormed_txbits : Instr.wellFormed Config.defaultParams (.txbits 0 17) = false := by decide

theorem test_wellFormed_read : Instr.wellFormed Config.defaultParams (.read 255) = true := by decide

theorem test_illFormed_request : Request.fits Config.defaultParams ⟨3, 256, 0⟩ = false := by decide

/-! ## Decoding: words written out from R87 and R88, in the packet form of log 6 -/

theorem test_decode_init : decodeTableWord 8 0b000 = some .init := by decide
theorem test_decode_ewen : decodeTableWord 8 0b001 = some .ewen := by decide
theorem test_decode_ewds : decodeTableWord 8 0b010 = some .ewds := by decide
theorem test_decode_read : decodeTableWord 32 0b01000101000000000000000000000011 = some (.read 0x45) := by decide
theorem test_decode_write :
    decodeTableWord 32 0b00000101000100100011010000000100 = some (.write 5 0x1234) := by decide
theorem test_decode_waitrdy : decodeTableWord 8 0b101 = some .waitrdy := by decide
theorem test_decode_reserved6 : decodeTableWord 8 0b110 = some .reserved6 := by decide
theorem test_decode_reserved7 : decodeTableWord 8 0b111 = some .reserved7 := by decide
theorem test_decode_noSuchCode : decodeTableWord 8 0b1000 = none := by decide
theorem test_decode_truncated : decodePacket Config.defaultParams [0x03, 0x00] = .error .truncatedPacket := rfl
theorem test_decode_tooWide :
    decodePacket Config.defaultParams [0x03, 0x00, 0x00, 0x00, 0x01] = .error .addressTooWide := rfl
theorem test_encode_write :
    encodePacket Config.defaultParams (.write 5 0x1234) = some [0x04, 0x34, 0x12, 0x05] := by decide

/-- V18: the frame values. -/
theorem test_frame_values :
    Frame.ewen.value = 0x130 ∧ Frame.ewds.value = 0x100 ∧ (Frame.read 5).value = 0x185 ∧
    (Frame.read 63).value = 0x1BF ∧ (Frame.write 5 0x1234).value = 0x1451234 ∧
    (Frame.write 63 0xFFFF).value = 0x17FFFFF ∧ (Frame.write 0 0).value = 0x1400000 := by decide

theorem test_frame_read_bits : (Frame.read 5).bits = [true, true, false, false, false, false, true, false, true] := by
  decide

theorem test_frame_neverSent : parseFrame [true, true, true] = .error .neverSentOpcode := rfl

theorem test_frame_neverSentFunction :
    parseFrame [true, false, false, false, true, false, false, false, false] = .error .neverSentFunction := rfl

theorem test_frame_noStart : parseFrame [false, true] = .error .noStartBit := rfl

/-! ## One operation each -/

/-- V15, second row. -/
theorem test_init_pinTrace :
    pinTrace ⟨true, true, true⟩ (after (exec .init { demo [] [] with cs := true, sk := true, di := true })).trace
      = ofLetters "ckd".toList := by decide

/-- V16. -/
theorem test_ewen_pinTrace :
    pinTrace .idle (after (exec .ewen (demo [] []))).trace
      = ofLetters "C.D.K.k.d.K.k..K.k.D.K.k..K.k.d.K.k..K.k..K.k..K.kc".toList := by decide

/-- V16. -/
theorem test_ewds_pinTrace :
    pinTrace .idle (after (exec .ewds (demo [] []))).trace
      = ofLetters "C.D.K.k.d.K.k..K.k..K.k..K.k..K.k..K.k..K.k..K.kc".toList := by decide

/-- V12: `READ 5` answered with the bits of `0x1234`. -/
theorem test_read_word : (after (exec (.read 5) (demo bits1234 []))).response = some ⟨true, some 0x1234⟩ := by
  decide

/-- V12: `READ 133` sends the frame `110000101`, then sixteen pulses with `DI = 0`. -/
theorem test_read_frame :
    bitsTaken .idle (after (exec (.read 133) (demo bits1234 []))).trace
      = [true, true, false, false, false, false, true, false, true] ++ List.replicate 16 false := by decide +kernel

/-- V13: `WRITE 5, 0x1234` answered 0, 0, 1. -/
theorem test_write_frames :
    bitsTaken .idle (after (exec (.write 5 0x1234) (demo [false, false, true] []))).trace
      = [true, false, false, true, true, false, false, false, false] ++
        [true, false, true, false, false, false, true, false, true, false, false, false, true, false, false, true,
          false, false, false, true, true, false, true, false, false] ++ [false, false, false] ++
        [true, false, false, false, false, false, false, false, false] := by decide +kernel

/-- P2: a timeout is reported as 0, with `POLLCNT` at the ceiling. -/
theorem test_write_timeout :
    let t := after (exec (.write 10 0xBEEF) (demo [false, false, false] []))
    t.ok = false ∧ t.rdy = false ∧ t.pollcnt = 3 ∧ t.lines = Lines.idle := by decide

/-- V14: ready at the last allowed sample. -/
theorem test_waitrdy_last :
    let t := after (exec .waitrdy (demo [false, false, true] []))
    t.trace = ofLetters "dkCK?0kK?0kK?1kc".toList ∧ t.ok = true := by decide

/-- V14: timeout. -/
theorem test_waitrdy_timeout :
    let t := after (exec .waitrdy (demo [false, false, false] []))
    t.trace = ofLetters "dkCK?0kK?0kK?0kc".toList ∧ t.ok = false := by decide

/-- V18: no event, `OK = 0`, `RDATA` unchanged. -/
theorem test_reserved6 :
    let t := after (exec .reserved6 { demo [] [] with rdata := 7, ok := true })
    t.trace = [] ∧ t.ok = false ∧ t.rdata = 7 ∧ t.rspValid = true := by decide

theorem test_reserved7 :
    let t := after (exec .reserved7 { demo [] [] with rdata := 7, ok := true })
    t.trace = [] ∧ t.ok = false ∧ t.rdata = 7 ∧ t.rspValid = true := by decide

/-- V8: only bits 2:0 of `0xF5` are sent. -/
theorem test_txbits :
    (after (exec (.txbits 0xF5 3) (demo [] []))).trace = ofLetters "k.D.K.k.d.K.k.D.K.k".toList := by decide

/-- V8, last line: `count = 0` entered with the clock active. -/
theorem test_txbits_zero :
    pinTrace ⟨false, true, false⟩ (after (exec (.txbits 1 0) { demo [] [] with sk := true })).trace = [.sk false] := by
  decide

/-- V9: the pin trace from `CS = 1`. -/
theorem test_txaddr :
    pinTrace ⟨true, false, false⟩ (after (exec (.txaddr 0x45) { demo [] [] with cs := true })).trace
      = ofLetters "..K.k..K.k..K.k.D.K.k.d.K.k.D.K.k".toList := by decide

/-- V10: 83 events at the pins, `DI` ends at 1. -/
theorem test_txword :
    let t := after (exec (.txword 0x8001) (demo [] []))
    (pinTrace .idle t.trace).length = 83 ∧ t.di = true := by decide

/-- V11b, last row. -/
theorem test_rxword :
    let t := after (exec .rxword (demo bits1234 []))
    t.rxacc = 0x1234 ∧ t.trace = ofLetters
      "dK.k.?0K.k.?0K.k.?0K.k.?1K.k.?0K.k.?0K.k.?1K.k.?0K.k.?0K.k.?0K.k.?1K.k.?1K.k.?0K.k.?1K.k.?0K.k.?0".toList := by
  decide

/-- R140. -/
theorem test_erase : exec .erase (demo [] []) = .refused (.declaredNotImplemented "EepErase") := rfl

/-- R9: an `SK` transition to 1 is a pulse only with the later one back to 0. -/
theorem test_pulses_need_both_edges :
    pulsesOf .idle [.sk true] = 0 ∧ pulsesOf .idle [.sk true, .sk true, .sk false] = 1 ∧
    pulsesOf ⟨false, true, false⟩ [.sk false, .sk true, .sk false] = 1 := by decide

/-! ## The sequencer, one row at a time (R31) -/

/-- V17: the first steps of `READ 5`: `F0` loads the frame `0x185` and its nine bits. -/
theorem test_sequencer_F0 :
    let t := after (tick { demo [] [] with step := .f0, busy := true, opr := .read, addr := 5 })
    t.txsr = 0x185 ∧ t.txcnt = 9 ∧ t.step = .t0 ∧ t.trace = [.cs true] := by decide

/-- V17, step 9: the last not-ready iteration goes to `W8`. -/
theorem test_sequencer_W5 :
    let t := after (tick { demo [] [] with step := .w5, busy := true, opr := .waitrdy, pollcnt := 2 })
    t.pollcnt = 3 ∧ t.step = .w8 ∧ t.trace = [.sk false] := by decide

/-- R31, row `E1` of a `READ`. -/
theorem test_sequencer_E1 :
    let t := after (tick { demo [] [] with step := .e1, busy := true, opr := .read, rxacc := 9 })
    t.rdata = 9 ∧ t.ok = true ∧ t.busy = false ∧ t.step = .idle ∧ t.rspValid = true := by decide

/-- A `STEP` with an `OPR` that has no row there (log 15). -/
theorem test_sequencer_offTable :
    tick { demo [] [] with step := .e1, busy := true, opr := .waitrdy } = .fault .offTable := rfl

/-- R6, R8: an active `CS` is at `CS_ACTIVE_LEVEL`. -/
theorem test_csPinLevel : (demo [] []).csPinLevel = false ∧ ((demo [] []).driveCs true).csPinLevel = true := by decide

/-- The host's question: a table word runs as the first instruction after reset. -/
theorem test_fetch_first : isNext (step (State.reset.withFetchWord 8 3)) = true := by decide

/-! ## Witnesses: states and operands that meet the statements' hypotheses -/

/-- A state in the middle of a frame: `WRITE 5, 0x1234`, its write frame, 25 bits to send. -/
def midFrame : State :=
  { demo [true] [] with
    step := .t1, busy := true, stage := .writeFrame, opr := .write, addr := 5, wdata := 0x1234
    cs := true, txsr := 0x1451234, txcnt := 25 }

theorem midFrame_inv : midFrame.Inv := ⟨by decide, by decide, by decide, by decide⟩

theorem demo_inv (answers : List Bool) (requests : List Request)
    (h : ∀ r ∈ requests, r.fits (demo answers requests).params = true) : (demo answers requests).Inv :=
  ⟨by simp [demo, State.reset], by simp [demo, State.reset, State.fitsRow], by simp [demo], h⟩

theorem demo_ready (answers : List Bool) (requests : List Request) : (demo answers requests).ready := ⟨rfl, rfl⟩

theorem witness_EncodedInstructionDecodesBack :
    Instr.requestable (.write 255 0xFFFF) = true ∧
    Instr.wellFormed Config.defaultParams (.write 255 0xFFFF) = true := by decide

theorem witness_DecodedInstructionIsWellFormed :
    decodePacket Config.defaultParams [0x03, 0x00, 0x00, 0xFF] = .ok (.read 255) := rfl

theorem witness_ParsedBitsAreTheFrame :
    parseFrame [true, false, false, true, true, true, false, true, false] = .ok .ewen ∧
    parseFrame (Frame.read 63).bits = .ok (.read 63) ∧
    parseFrame (Frame.write 63 0xFFFF).bits = .ok (.write 63 0xFFFF) := ⟨rfl, rfl, rfl⟩

theorem witness_TransmitBitsEffect : (16 : Nat) ≤ 16 ∧ (16 : Nat) < 17 := by decide

theorem witness_TransmitBitsPulsesAndDataWindow : (0 : Nat) ≤ 16 ∧ (16 : Nat) ≤ 16 := by decide

theorem witness_TransmitBitsCallsJoin : 10 + 6 ≤ 16 := by decide

theorem witness_ReceivedBitsAreMostSignificantFirst : (0 : Nat) < 16 ∧ 15 < 16 := by decide

theorem witness_CanonicalEventCounts :
    (demo [] []).sk = false ∧
    (demo [false, false, true] []).firstReady 3 = some 2 ∧
    (demo [false, false, false] []).firstReady 3 = none := by decide

theorem witness_StepKeepsInvariant : ∃ s t : State, s.Inv ∧ step s = .next t :=
  ⟨_, _, demo_inv [] [⟨3, 5, 0⟩] (by decide), rfl⟩

theorem witness_SequencerKeepsInvariant : ∃ s t : State, s.Inv ∧ s.step ≠ .idle ∧ tick s = .next t :=
  ⟨_, _, midFrame_inv, by decide, rfl⟩

theorem witness_MachineNeverStops : ∃ s : State, s.Inv ∧ s.step ≠ .idle := ⟨_, midFrame_inv, by decide⟩

/-- The four clauses of `StepRunsRequestedInstruction`. -/
theorem witness_StepRunsRequestedInstruction :
    ((demo [] [⟨0, 0, 0⟩]).ready ∧ (demo [] [⟨0, 0, 0⟩]).hostQueue = [⟨0, 0, 0⟩]) ∧
    decodeTableWord 8 7 = some .reserved7 ∧
    ((demo [] []).ready ∧ (demo [] []).hostQueue = []) ∧
    midFrame.step ≠ .idle := ⟨⟨demo_ready _ _, rfl⟩, by decide, ⟨demo_ready _ _, rfl⟩, by decide⟩

/-- The last row of a poll, which ends its operation. -/
def lastRow : State := { demo [] [] with step := .w7, busy := true, opr := .waitrdy, cs := true }

theorem lastRow_inv : lastRow.Inv := ⟨by decide, by decide, by decide, by decide⟩

theorem witness_OperationsEndWithIdleLines :
    lastRow.Inv ∧ lastRow.step ≠ .idle ∧ ∃ t, tick lastRow = .next t ∧ t.step = .idle :=
  ⟨lastRow_inv, by decide, _, rfl, by decide⟩

theorem witness_ChipSelectStaysActiveInTransaction :
    lastRow.Inv ∧ lastRow.cs = true ∧ ∃ t, tick lastRow = .next t ∧ t.cs = false :=
  ⟨lastRow_inv, by decide, _, rfl, by decide⟩

/-- The row that drives a data bit of 1. -/
def dataRow : State := { midFrame with step := .t2 }

theorem witness_DataInChangesOnlyWhileClockLow :
    dataRow.Inv ∧ dataRow.cs = true ∧ dataRow.step ≠ .w0 ∧ ∃ t, tick dataRow = .next t ∧ t.di ≠ dataRow.di :=
  ⟨⟨by decide, by decide, by decide, by decide⟩, by decide, by decide, _, rfl, by decide⟩

/-- Also for `SequencerRefinesOperations`, `SequencerEventCounts` and `RunAnswersEveryRequest`: a ready state with
a request of each code, and polls of both ends. -/
theorem witness_SequencerEventCounts :
    (∀ op : BitVec 3, (demo [] [⟨op, 5, 0⟩]).ready ∧ (demo [] [⟨op, 5, 0⟩]).hostQueue = [⟨op, 5, 0⟩]) ∧
    (demo [false, true] [⟨5, 0, 0⟩]).firstReady 3 = some 1 ∧
    (demo [false, false, false] [⟨5, 0, 0⟩]).firstReady 3 = none :=
  ⟨fun _ => ⟨demo_ready _ _, rfl⟩, by decide, by decide⟩

theorem witness_OperationsAlwaysComplete : midFrame.Inv := midFrame_inv

theorem witness_OperationsIgnoreLeftOverState :
    Instr.requestable (.read 5) = true ∧
    (demo bits1234 []).params.pollCeiling = ({ demo bits1234 [] with rdata := 9, cs := true } : State).params.pollCeiling ∧
    ∀ k, (demo bits1234 []).answer k = ({ demo bits1234 [] with rdata := 9, cs := true } : State).answer k :=
  ⟨by decide, rfl, fun _ => rfl⟩

theorem witness_OnlyReadWritesReadData :
    (∃ t, exec .ewen (demo [] []) = .next t) ∧
    ∃ s t : State, tick s = .next t ∧ t.rdata ≠ s.rdata :=
  ⟨⟨_, rfl⟩, { demo [] [] with step := .e1, busy := true, opr := .read, rxacc := 9 }, _, rfl, by decide⟩

theorem witness_LatchesHoldUntilNextRequest : midFrame.step ≠ .idle ∧ ∃ t, tick midFrame = .next t :=
  ⟨by decide, _, rfl⟩

/-- The clauses of `FlagsAreWrittenOnlyWhereSaid`: a completing row that changes `OK`, `RDY` and `BUSY`, and an
acceptance. -/
theorem witness_FlagsAreWrittenOnlyWhereSaid :
    lastRow.Inv ∧ (∃ t, tick lastRow = .next t ∧ t.ok ≠ lastRow.ok ∧ t.rdy ≠ lastRow.rdy ∧ lastRow.busy = true ∧ t.busy = false) ∧
    ∃ t, tick (demo [] [⟨1, 0, 0⟩]) = .next t ∧ t.busy = true :=
  ⟨lastRow_inv, ⟨_, rfl, by decide, by decide, by decide, by decide⟩, _, rfl, by decide⟩

theorem witness_ResponseIsPostedAtCompletion :
    (midFrame.step ≠ .idle ∧ ∃ t, tick midFrame = .next t) ∧ Instr.requestable .waitrdy = true :=
  ⟨⟨by decide, _, rfl⟩, by decide⟩

theorem witness_ParametersAreConstants :
    (∃ t, exec .rxword (demo [] []) = .next t) ∧ (∃ t, tick midFrame = .next t) ∧ ∃ t, step midFrame = .next t :=
  ⟨⟨_, rfl⟩, ⟨_, rfl⟩, _, rfl⟩

theorem witness_RunAnswersEveryRequest :
    (demo [] [⟨0, 0, 0⟩, ⟨6, 0, 0⟩]).ready ∧ (demo [] [⟨0, 0, 0⟩, ⟨6, 0, 0⟩]).hostQueue ≠ [] :=
  ⟨demo_ready _ _, by decide⟩

/-- A `DLY` row with its counter loaded. -/
def delayRow : State := { midFrame with dlycnt := 2 }

theorem witness_ClockCyclesOfOneStep :
    (dataRow.step.isDelay = false ∧ ∃ t, tick dataRow = .next t) ∧
    (delayRow.step.isDelay = true ∧ 1 ≤ delayRow.params.delayCycles ∧
      delayRow.dlycnt = delayRow.params.delayCycles ∧ ∃ t, tick delayRow = .next t) :=
  ⟨⟨by decide, _, rfl⟩, by decide, by decide, by decide, _, rfl⟩

theorem witness_ClockedRealisationRefinesSequencer :
    1 ≤ delayRow.params.delayCycles ∧
    delayRow.dlycnt = (if delayRow.step.isDelay then delayRow.params.delayCycles else 0) ∧
    ∃ t, runTicks 2 delayRow = .next t ∧ t.trace = delayRow.trace ++ [.dly, .di true] :=
  ⟨by decide, by decide, _, rfl, by decide⟩

/-! ## Witnesses against the reference device -/

theorem fresh_seesIdle (n : Option Nat) : (EnvRef.fresh n).seesIdle := ⟨rfl, rfl, rfl⟩

theorem demo_idle (answers : List Bool) (requests : List Request) : (demo answers requests).lines = Lines.idle := rfl

theorem witness_UnprotectedWriteIsRejected : (EnvRef.fresh (some 0)).seesIdle ∧ (EnvRef.fresh (some 0)).wen = false :=
  ⟨fresh_seesIdle _, rfl⟩

/-- P1, requests 2 and 3, with the device ready at the second sample: the write, then the read. -/
def written : State := after (exec (.write 5 0x1234) (demo ([false, true] ++ bits1234) []))

def readBack : State := after (exec (.read 5) written)

def writeEvents : List Event := written.trace

def readBackEvents : List Event := readEvents 5 bits1234

theorem witness_WriteThenReadReturnsTheWord :
    exec (.write 5 0x1234) (demo ([false, true] ++ bits1234) []) = .next written ∧
    written.trace = (demo ([false, true] ++ bits1234) []).trace ++ writeEvents ∧
    exec (.read 5) written = .next readBack ∧ readBack.trace = written.trace ++ readBackEvents ∧
    (((EnvRef.fresh (some 1)).watch Lines.idle writeEvents).bind
      (fun d1 => d1.watch written.lines readBackEvents)).isSome = true ∧
    1 < (demo ([false, true] ++ bits1234) []).params.pollCeiling.toNat := by
  refine ⟨next_after rfl, (List.nil_append writeEvents).symm, next_after rfl, ?_, ?_, by decide⟩
  · decide +kernel
  · decide +kernel

theorem witness_ReadReturnsDeviceWord :
    exec (.read 5) (demo (List.replicate 16 false) [])
      = .next (after (exec (.read 5) (demo (List.replicate 16 false) []))) ∧
    ((EnvRef.fresh none).watch Lines.idle
      (after (exec (.read 5) (demo (List.replicate 16 false) []))).trace).isSome = true := by
  refine ⟨next_after rfl, ?_⟩
  decide +kernel

theorem witness_WriteTimesOutOnBusyDevice :
    (EnvRef.fresh (some 3)).busyPolls = some 3 ∧
    (demo [false, false, false] []).params.pollCeiling.toNat ≤ 3 ∧
    ((EnvRef.fresh (some 3)).watch Lines.idle
      (after (exec (.write 10 0xBEEF) (demo [false, false, false] []))).trace).isSome = true := by
  refine ⟨rfl, by decide, ?_⟩
  decide +kernel

end Sys2Proof.Tests
end

section
/-! SUPPORT and PROOFS for 10_state.md: the whole effect of each requestable instruction, what a row of the
sequencer can do, and the statements on idle lines, left-over state, flags and reset. -/

namespace Sys2Proof.Machine

/-! ## The whole effect of each requestable instruction

Each is the equation of the operation (Laws/Transport) under `accept` and `finish`. -/

/-- `INIT` (R110). -/
theorem exec_init (s : State) : exec .init s = .next { s with
    opr := .init, stage := .enableFrame, step := .idle, busy := false, ok := true, rspValid := true
    cs := false, sk := false, di := false
    trace := s.trace ++ [.cs false, .sk false, .di false] } := by
  simp [exec, execInit, State.accept, State.driveCs, State.driveSk, State.driveDi, State.finish]

/-- `EWEN` (R111). -/
theorem exec_ewen (s : State) : exec .ewen s = .next { s with
    opr := .ewen, stage := .enableFrame, step := .idle, busy := false, ok := true, rspValid := true
    cs := false, sk := false, di := false, txsr := Frame.ewen.value, txcnt := 0
    trace := s.trace ++ transactionEvents .ewen } := by
  rw [exec, execEwen, writeEnable, transaction_eq]
  rfl

/-- `EWDS` (R112). -/
theorem exec_ewds (s : State) : exec .ewds s = .next { s with
    opr := .ewds, stage := .enableFrame, step := .idle, busy := false, ok := true, rspValid := true
    cs := false, sk := false, di := false, txsr := Frame.ewds.value, txcnt := 0
    trace := s.trace ++ transactionEvents .ewds } := by
  rw [exec, execEwds, writeDisable, transaction_eq]
  rfl

/-- `READ` (R120). -/
theorem exec_read (a : Nat) (s : State) : exec (.read a) s = .next { s.consumed 16 with
    opr := .read, stage := .enableFrame, step := .idle, busy := false, ok := true, rspValid := true
    addr := trunc6 a, rdata := wordOfSamples (s.answers 16)
    cs := false, sk := false, di := false, txsr := (Frame.read (trunc6 a)).value, txcnt := 0
    rxacc := wordOfSamples (s.answers 16), rxcnt := 0
    trace := s.trace ++ readEvents (trunc6 a) (s.answers 16) } := by
  have ha : (sendFrame (.read (trunc6 a)) ((s.accept .read).latchAddr a)).answers 16 = s.answers 16 := by
    rw [sendFrame_eq]; rfl
  rw [exec, execRead, receiveWord_eq, ha, sendFrame_eq]
  simp [State.accept, State.latchAddr, State.closeTransaction, State.driveCs, State.driveDi,
    State.latchRead, State.finish, readEvents]

/-- `WAITRDY` (R130). -/
theorem exec_waitrdy (s : State) :
    exec .waitrdy s = .next { s.consumed (s.pollSamples s.params.pollCeiling.toNat) with
      opr := .waitrdy, stage := .enableFrame, step := .idle, busy := false, rspValid := true
      ok := (s.firstReady s.params.pollCeiling.toNat).isSome
      rdy := (s.firstReady s.params.pollCeiling.toNat).isSome
      cs := false, sk := false, di := false
      pollcnt := BitVec.ofNat 16
        ((s.firstReady s.params.pollCeiling.toNat).getD s.params.pollCeiling.toNat)
      trace := s.trace ++ s.pollEvents s.params.pollCeiling.toNat } := by
  rw [exec, execWaitrdy, waitReady_eq]
  rfl

/-- `WRITE` (R121). -/
theorem exec_write (a : Nat) (w : Word) (s : State) :
    exec (.write a w) s = .next { s.consumed (s.pollSamples s.params.pollCeiling.toNat) with
      opr := .write, stage := .disableFrame, step := .idle, busy := false, rspValid := true
      ok := (s.firstReady s.params.pollCeiling.toNat).isSome
      rdy := (s.firstReady s.params.pollCeiling.toNat).isSome
      addr := trunc6 a, wdata := w
      cs := false, sk := false, di := false, txsr := Frame.ewds.value, txcnt := 0
      pollcnt := BitVec.ofNat 16
        ((s.firstReady s.params.pollCeiling.toNat).getD s.params.pollCeiling.toNat)
      trace := s.trace ++ (transactionEvents .ewen ++ transactionEvents (.write (trunc6 a) w) ++
        s.pollEvents s.params.pollCeiling.toNat ++ transactionEvents .ewds) } := by
  simp only [exec, execWrite, writeSequence, writeEnable, writeDisable, transaction_eq, waitReady_eq,
    ← List.append_assoc]
  rfl

/-- A reserved code (R89 a). -/
theorem exec_reserved6 (s : State) : exec .reserved6 s = .next { s with
    opr := .reserved6, stage := .enableFrame, step := .idle, busy := false, ok := false
    rspValid := true } := rfl

/-- A reserved code (R89 a). -/
theorem exec_reserved7 (s : State) : exec .reserved7 s = .next { s with
    opr := .reserved7, stage := .enableFrame, step := .idle, busy := false, ok := false
    rspValid := true } := rfl

/-! ## What a requestable instruction shows: its events and its response (R24, R34) -/

/-- The poll of `wait_ready` sees ready before the ceiling (R130). -/
def State.pollReady (s : State) : Bool := (s.firstReady s.params.pollCeiling.toNat).isSome

/-- The events of a requestable instruction; the others have none here. -/
def State.opEvents (s : State) : Instr → List Event
  | .init => [.cs false, .sk false, .di false]
  | .ewen => transactionEvents .ewen
  | .ewds => transactionEvents .ewds
  | .read a => readEvents (trunc6 a) (s.answers 16)
  | .write a w => transactionEvents .ewen ++ transactionEvents (.write (trunc6 a) w) ++
      s.pollEvents s.params.pollCeiling.toNat ++ transactionEvents .ewds
  | .waitrdy => s.pollEvents s.params.pollCeiling.toNat
  | _ => []

/-- The response to a requestable instruction. -/
def State.opResponse (s : State) : Instr → Response
  | .init | .ewen | .ewds => { ok := true, data := none }
  | .read _ => { ok := true, data := some (wordOfSamples (s.answers 16)) }
  | .write _ _ | .waitrdy => { ok := s.pollReady, data := none }
  | _ => { ok := false, data := none }

/-- The operation rules, as far as the pins and the response port show them. -/
theorem exec_shows {i : Instr} (s : State) (hi : i.requestable = true) :
    ∃ t, exec i s = .next t ∧ t.trace = s.trace ++ s.opEvents i ∧ t.ok = (s.opResponse i).ok ∧
      t.response = some (s.opResponse i) := by
  cases i with
  | init => exact ⟨_, exec_init s, rfl, rfl, rfl⟩
  | ewen => exact ⟨_, exec_ewen s, rfl, rfl, rfl⟩
  | ewds => exact ⟨_, exec_ewds s, rfl, rfl, rfl⟩
  | read a => exact ⟨_, exec_read a s, rfl, rfl, rfl⟩
  | write a w => exact ⟨_, exec_write a w s, rfl, rfl, rfl⟩
  | waitrdy => exact ⟨_, exec_waitrdy s, rfl, rfl, rfl⟩
  | reserved6 => exact ⟨_, exec_reserved6 s, (List.append_nil _).symm, rfl, rfl⟩
  | reserved7 => exact ⟨_, exec_reserved7 s, (List.append_nil _).symm, rfl, rfl⟩
  | txbits | txaddr | txword | rxword | erase | eral | wral | mlread | mlwrite | eepTest | checkrdy
  | eepEnd => cases hi

section
variable {s1 s2 : State} (hc : s1.params.pollCeiling = s2.params.pollCeiling) (ha : s1.answer = s2.answer)
include ha

theorem State.answers_congr (n : Nat) : s1.answers n = s2.answers n := by
  rw [State.answers, State.answers, ha]

theorem State.firstReady_congr (n : Nat) : s1.firstReady n = s2.firstReady n := by
  rw [State.firstReady, State.firstReady, ha]

theorem State.pollEvents_congr (n : Nat) : s1.pollEvents n = s2.pollEvents n := by
  rw [State.pollEvents, State.pollEvents, State.firstReady_congr ha]

include hc

/-- The events depend on the operands, the coming samples and `POLL_CEILING` only (R34). -/
theorem State.opEvents_congr (i : Instr) : s1.opEvents i = s2.opEvents i := by
  cases i <;> simp only [State.opEvents, State.answers_congr ha, State.pollEvents_congr ha, hc]

/-- So does the response (R34). -/
theorem State.opResponse_congr (i : Instr) : s1.opResponse i = s2.opResponse i := by
  cases i <;>
    simp only [State.opResponse, State.pollReady, State.answers_congr ha, State.firstReady_congr ha, hc]

end

/-- Settles O43: what an operation shows is `opEvents` and `opResponse`, and neither reads the rest of the
state. -/
theorem operationsIgnoreLeftOverState : Obligations.OperationsIgnoreLeftOverState := by
  intro i s1 s2 hi hc hans
  have ha : s1.answer = s2.answer := funext hans
  obtain ⟨t1, he1, htr1, hok1, hr1⟩ := exec_shows s1 hi
  obtain ⟨t2, he2, htr2, hok2, hr2⟩ := exec_shows s2 hi
  rw [State.opEvents_congr hc ha] at htr1
  rw [State.opResponse_congr hc ha] at hok1 hr1
  exact ⟨t1, t2, s2.opEvents i, he1, he2, htr1, htr2, hok1.trans hok2.symm, hr1.trans hr2.symm⟩

/-! ## What a step of the sequencer can do -/

/-- What every row of a running operation leaves alone, before it goes on or finishes: the flags (R29), but for
`RDY` at the end of a poll, the latches (R23), the parameters (R39) and the host's requests. -/
structure State.RowKeeps (s u : State) : Prop where
  busy      : u.busy = s.busy := by rfl
  ok        : u.ok = s.ok := by rfl
  rdy       : u.rdy = s.rdy ∨ s.step = .w7 ∨ s.step = .w8 := by exact .inl rfl
  opr       : u.opr = s.opr := by rfl
  addr      : u.addr = s.addr := by rfl
  wdata     : u.wdata = s.wdata := by rfl
  params    : u.params = s.params := by rfl
  hostQueue : u.hostQueue = s.hostQueue := by rfl

/-- One row of a running operation (R31): it goes on to a row that is not `IDLE`, or it is one of the four
rows that can complete the operation, whose last event is a `DI(0)` or a `CS(0)`. -/
inductive RunningRow (s t : State) : Prop where
  | goesOn (u : State) (x : SeqStep) (keeps : s.RowKeeps u) (running : x ≠ .idle) (eq : t = (u.goto x).quiet)
  | completes (u : State) (v : Bool) (keeps : s.RowKeeps u)
      (lines : (s.step = .i2 ∨ s.step = .e1) ∧ u.lines = s.lines.after (.di false) ∨
        (s.step = .w7 ∨ s.step = .w8) ∧ u.lines = s.lines.after (.cs false))
      (eq : t = u.finish v)

section
variable {s t u : State}

/-- A row that goes on. -/
theorem RunningRow.of_goOn {x : SeqStep} (h : u.goOn x = .next t) (keeps : s.RowKeeps u) (running : x ≠ .idle) :
    RunningRow s t := by
  cases h; exact .goesOn u x keeps running rfl

/-- The row `E1` ends a transaction: the operation completes, or a `write` goes on to its next stage. -/
theorem RunningRow.of_endRow (hs : s.step = .e1) (h : (s.driveDi false).endRow = .next t) : RunningRow s t := by
  have complete (u : State) (v : Bool) (keeps : s.RowKeeps u) (hl : u.lines = s.lines.after (.di false)) :
      RunningRow s (u.finish v) :=
    .completes u v keeps (.inl ⟨.inr hs, hl⟩) rfl
  unfold State.endRow at h
  split at h
  case h_1 | h_2 | h_3 | h_6 => cases h; exact complete _ _ {} rfl
  case h_4 | h_5 => exact .of_goOn h {} (by decide)
  all_goals cases h

/-- The rows `W7` and `W8` end a poll: `WAITRDY` completes, a `write` goes on to its disable frame. -/
theorem RunningRow.of_pollEndRow {v : Bool} (hs : s.step = .w7 ∨ s.step = .w8)
    (h : (s.driveCs false).pollEndRow v = .next t) : RunningRow s t := by
  unfold State.pollEndRow at h
  split at h
  case h_1 =>
    cases h
    exact .completes ((s.driveCs false).setRdy v) v { rdy := .inr hs } (.inr ⟨hs, rfl⟩) rfl
  case h_2 => exact .of_goOn h { rdy := .inr hs } (by decide)
  all_goals cases h

/-- Every step of a running operation is a `RunningRow`. -/
theorem runningRow_of_tick (hs : s.step ≠ .idle) (h : tick s = .next t) : RunningRow s t := by
  cases hstep : s.step with
  | idle => exact absurd hstep hs
  | i2 =>
    rw [tick_i2 hstep] at h
    cases h
    exact .completes (s.driveDi false) true {} (.inl ⟨.inl hstep, rfl⟩) rfl
  | e1 => exact .of_endRow hstep (tick_e1 hstep ▸ h)
  | w7 => exact .of_pollEndRow (.inl hstep) (tick_w7 hstep ▸ h)
  | w8 => exact .of_pollEndRow (.inr hstep) (tick_w8 hstep ▸ h)
  | f0 =>
    cases hf : s.frame with
    | none => simp [tick, hstep, hf] at h
    | some f =>
      rw [tick_f0 hstep hf] at h
      exact .of_goOn h {} (by decide)
  | t2 =>
    rw [tick_t2 hstep] at h
    split at h
    · cases h
    · exact .of_goOn h {} (by decide)
  | t5 | x5 =>
    simp only [tick, hstep] at h
    split at h
    · cases h
    · exact .of_goOn h {} (by split <;> decide)
  | t6 | w2 | w4 | w5 =>
    simp only [tick, hstep] at h
    exact .of_goOn h {} (by split <;> decide)
  | i0 | i1 | t0 | t1 | t3 | t4 | x0 | x1 | x2 | x3 | x4 | e0 | w0 | w1 | w3 | w6 =>
    simp only [tick, hstep] at h
    exact .of_goOn h {} (by decide)

/-- What acceptance can do (R23, R31, R89 a): an operation begins, or a reserved code completes at once. -/
theorem acceptRow_cases (s : State) (r : Request) :
    (∃ (u : State) (x : SeqStep), s.acceptRow r = u.goto x ∧ x ≠ .idle ∧
        u.busy = true ∧ u.ok = s.ok ∧ u.rdy = s.rdy) ∨
      ∃ op, s.acceptRow r = (s.accept op).finish false := by
  unfold State.acceptRow
  split
  case h_7 | h_8 => exact .inr ⟨_, rfl⟩
  all_goals exact .inl ⟨_, _, rfl, by decide, rfl, rfl, rfl⟩

end

/-- Settles O46, by what a step can do: idle, acceptance, or a row of a running operation. -/
theorem flagsAreWrittenOnlyWhereSaid : Obligations.FlagsAreWrittenOnlyWhereSaid := by
  intro s t h
  by_cases hs : s.step = .idle
  · cases hf : s.fetch with
    | none =>
      rw [tick_idle_none hs hf] at h
      cases h
      exact ⟨by simp, by simp, by simp_all, by simp_all, State.Inv.busy_iff, rfl⟩
    | some p =>
      obtain ⟨r, s1⟩ := p
      obtain ⟨⟨-, hbusy⟩, rest, hq, rfl⟩ := fetch_eq_some hf
      rw [tick_idle_some hs hf] at h
      cases h
      obtain ⟨u, x, hu, hx, hb, hok, hrdy⟩ | ⟨op, hu⟩ := acceptRow_cases { s with hostQueue := rest } r
      · rw [hu]
        exact ⟨by simp [hok], by simp [hrdy], by simp [hs, hq], by simp [hbusy], by simp [hb, hx], rfl⟩
      · rw [hu]
        exact ⟨by simp, by simp, by simp, by simp, by simp, rfl⟩
  · obtain ⟨u, x, keeps, hx, rfl⟩ | ⟨u, v, keeps, -, rfl⟩ := runningRow_of_tick hs h
    · exact ⟨fun hok => absurd keeps.ok hok, keeps.rdy.resolve_left, by simp_all [keeps.busy],
        by simp_all [keeps.busy], fun hI => by simp [keeps.busy, hI.busy_iff, hs, hx], rfl⟩
    · exact ⟨by simp, keeps.rdy.resolve_left, by simp, by simp, by simp, rfl⟩

/-! ## Idle lines at the end of an operation -/

/-- The row that completes an operation drives the one line that the row's invariant does not yet have idle. -/
theorem lines_idle_of_completing {s t : State} (hinv : s.Inv) (hs : s.step ≠ .idle) (h : tick s = .next t)
    (ht : t.step = .idle) : t.lines = Lines.idle := by
  have fits := hinv.fits
  obtain ⟨u, x, -, hx, rfl⟩ | ⟨u, v, -, ⟨hrow | hrow, hl⟩ | ⟨hrow | hrow, hl⟩, rfl⟩ := runningRow_of_tick hs h
  · exact absurd ht hx
  all_goals
    rw [State.finish_lines, hl]
    simp [State.fitsRow, State.polling, hrow] at fits
    simp [State.lines, Lines.after, Lines.idle, fits]

/-- Settles O35: the operation rules by their whole effects, the sequencer by its completing rows. -/
theorem operationsEndWithIdleLines : Obligations.OperationsEndWithIdleLines := by
  refine ⟨fun a w s i hi => ?_, fun s t => lines_idle_of_completing⟩
  simp only [List.mem_cons, List.not_mem_nil, or_false] at hi
  obtain rfl | rfl | rfl | rfl | rfl | rfl := hi
  · exact ⟨_, exec_init s, rfl, rfl, rfl⟩
  · exact ⟨_, exec_ewen s, rfl, rfl, rfl⟩
  · exact ⟨_, exec_ewds s, rfl, rfl, rfl⟩
  · exact ⟨_, exec_read a s, rfl, rfl, rfl⟩
  · exact ⟨_, exec_write a w s, rfl, rfl, rfl⟩
  · exact ⟨_, exec_waitrdy s, rfl, rfl, rfl⟩

/-! ## Reset -/

/-- Settles O29: each field as `State.reset` gives it. -/
theorem resetControlState : Obligations.ResetControlState :=
  ⟨rfl, rfl, rfl, rfl, rfl, rfl, rfl⟩

end Sys2Proof.Machine
end

section
/-! SUPPORT and PROOFS for 20_memory.md: the truncation of an address (R62). -/

namespace Sys2Proof.Machine

/-! ## The address truncation (R62) -/

@[simp] theorem trunc6_toNat (a : Nat) : (trunc6 a).toNat = a % 64 := BitVec.toNat_ofNat a 6

@[simp] theorem trunc6_mod (a : Nat) : trunc6 (a % 64) = trunc6 a :=
  BitVec.eq_of_toNat_eq (by rw [trunc6_toNat, trunc6_toNat, Nat.mod_mod])

/-- Settles O27: the whole effects of `READ` and `WRITE` see the address through `trunc6` only. -/
theorem addressesAreTruncated : Obligations.AddressesAreTruncated := by
  intro a w s
  refine ⟨?_, ?_, ⟨_, exec_read a s, trunc6_toNat a⟩, ⟨_, exec_write a w s, trunc6_toNat a⟩⟩
  · rw [exec_read, exec_read, trunc6_mod]
  · rw [exec_write, exec_write, trunc6_mod]

end Sys2Proof.Machine
end

section
/-! SUPPORT and PROOFS for 30_encoding.md: the bits and samples of the frames, of a received word and of a poll,
the fields of the frames, and the request codes. -/

namespace Sys2Proof

/-! ## The request codes (R88) -/

/-- Settles O1: `OpCode.ofCode` at each of the eight codes. -/
theorem requestCodesNameOperations : Obligations.RequestCodesNameOperations := by
  intro a w
  exact ⟨rfl, rfl, rfl, rfl, rfl, rfl, rfl, rfl⟩

/-! ## The frames as values (R80 to R84) -/

/-- The groups of a frame are its bits, cut into pieces (R81, R82 to R84). -/
theorem Frame.flatMap_groups (f : Frame) : (f.groups.flatMap fun g => msbFirst g.1 g.2) = f.bits := by
  cases f with
  | ewen | ewds => rfl
  | read | write => simp [Frame.groups, Frame.bits, Frame.value, Frame.length, msbFirst]

/-- A field above a value's width holds 0. -/
theorem extractLsb'_setWidth_eq_zero {w v start : Nat} (a : BitVec w) (len : Nat) (h : w ≤ start) :
    (a.setWidth v).extractLsb' start len = 0#len := by
  ext i hi
  simp [BitVec.getLsbD_of_ge a (start + i) (by omega)]

/-- The field of a read frame above its address (R84). -/
theorem Frame.read_value_extractLsb' (a : Addr) {start : Nat} (len : Nat) (h : 6 ≤ start) :
    (Frame.read a).value.extractLsb' start len = (0x180#25).extractLsb' start len := by
  rw [Frame.value, BitVec.extractLsb'_or, extractLsb'_setWidth_eq_zero a len h, BitVec.or_zero]

/-- The address field of a read frame (R84). -/
theorem Frame.read_value_address (a : Addr) : (Frame.read a).value.extractLsb' 0 6 = a := by
  rw [Frame.value, BitVec.extractLsb'_or, BitVec.extractLsb'_setWidth_of_le (by decide), BitVec.extractLsb'_eq_self]
  exact BitVec.zero_or

end Sys2Proof

namespace Sys2Proof.Machine

/-! ## Traces made of pieces -/

/-- The samples of a trace made of one piece for each member of a list. -/
theorem samplesOf_flatMap {α : Type} (f : α → List Event) (xs : List α) :
    samplesOf (xs.flatMap f) = xs.flatMap fun x => samplesOf (f x) := by
  induction xs with
  | nil => rfl
  | cons x xs ih => rw [List.flatMap_cons, samplesOf_append, ih, List.flatMap_cons]

/-- Pieces that each clock one bit and lead back to the lines they start from: the device takes the level of `DI`
once for each. -/
theorem bitsTaken_flatten_of_pulses {l : Lines} {ts : List (List Event)}
    (back : ∀ t ∈ ts, l.afterAll t = l) (bit : ∀ t ∈ ts, bitsTaken l t = [l.di]) :
    l.afterAll ts.flatten = l ∧ bitsTaken l ts.flatten = List.replicate ts.length l.di := by
  induction ts with
  | nil => exact ⟨rfl, rfl⟩
  | cons t ts ih =>
    obtain ⟨hback, back⟩ := List.forall_mem_cons.mp back
    obtain ⟨hbit, bit⟩ := List.forall_mem_cons.mp bit
    obtain ⟨hl, hb⟩ := ih back bit
    rw [List.flatten_cons, Lines.afterAll_append, bitsTaken_append, hback, hbit, hl, hb]
    exact ⟨rfl, rfl⟩

/-! ## The frames on the wire (R81, R100) -/

/-- Sending takes no sample (R100). -/
theorem samplesOf_txEvents (v : Word) (c : Nat) : samplesOf (txEvents v c) = [] := by
  have piece (b : Bool) : samplesOf (bitEvents b) = [] := rfl
  rw [txEvents, samplesOf_append, samplesOf_flatMap]
  simp [piece, samplesOf]

theorem samplesOf_groupEvents (f : Frame) : samplesOf (groupEvents f) = [] := by
  rw [groupEvents, samplesOf_flatMap]
  simp [samplesOf_txEvents]

/-- A selected device takes the groups one after the other, from either level of the clock (R100, R152 b). -/
theorem bitsTaken_txGroups (gs : List (Word × Nat)) (l : Lines) (h : l.cs = true) :
    bitsTaken l (gs.flatMap fun g => txEvents g.1 g.2) = gs.flatMap fun g => msbFirst g.1 g.2 := by
  induction gs generalizing l with
  | nil => rfl
  | cons g gs ih =>
    have selected : (l.afterAll (txEvents g.1 g.2)).cs = true := by rw [Lines.afterAll_txEvents]; exact h
    rw [List.flatMap_cons, bitsTaken_append, bitsTaken_txEvents l _ _ h, ih _ selected, List.flatMap_cons]

theorem bitsTaken_groupEvents (f : Frame) (l : Lines) (h : l.cs = true) :
    bitsTaken l (groupEvents f) = f.bits := by
  rw [groupEvents, bitsTaken_txGroups _ _ h, Frame.flatMap_groups]

/-- A whole transaction gives the device the frame's bits, from every line state (R111, R112, R121). -/
theorem bitsTaken_transactionEvents (f : Frame) (l : Lines) : bitsTaken l (transactionEvents f) = f.bits := by
  rw [transactionEvents, bitsTaken_append]
  simp [bitsTaken, bitsTaken_groupEvents f (l.after (.cs true)) rfl]

theorem samplesOf_transactionEvents (f : Frame) : samplesOf (transactionEvents f) = [] := by
  rw [transactionEvents, samplesOf_append]
  simp [samplesOf, samplesOf_groupEvents]

/-- Settles O7: a control operation's events are the transaction of its frame. -/
theorem controlFrameFormat : Obligations.ControlFrameFormat := by
  refine ⟨rfl, rfl, rfl, rfl, by decide, rfl, rfl, fun s => ?_, fun s => ?_⟩
  · exact ⟨_, _, exec_ewen s, rfl, bitsTaken_transactionEvents .ewen s.lines, samplesOf_transactionEvents .ewen⟩
  · exact ⟨_, _, exec_ewds s, rfl, bitsTaken_transactionEvents .ewds s.lines, samplesOf_transactionEvents .ewds⟩

/-! ## The read operation on the wire (R84, R103) -/

/-- The line state after a frame: the clock inactive, `DI` at the last bit (R100). -/
theorem Lines.afterAll_groupEvents (l : Lines) (f : Frame) :
    l.afterAll (groupEvents f) = { l with sk := false, di := lastBit f } := by
  cases f <;>
    simp [groupEvents, Frame.groups, lastBit, Lines.afterAll_append, Lines.afterAll_txEvents]

/-- `receive-word` takes its samples in order (R103). -/
theorem samplesOf_rxEvents (bs : List Bool) : samplesOf (rxEvents bs) = bs := by
  have piece (b : Bool) : samplesOf (rxBitEvents b) = [b] := rfl
  rw [rxEvents, samplesOf, samplesOf_flatMap]
  simp [piece]

/-- `receive-word` clocks one bit 0 for each sample (R84, R103). -/
theorem bitsTaken_rxEvents (l : Lines) (bs : List Bool) (hcs : l.cs = true) (hsk : l.sk = false) :
    bitsTaken l (rxEvents bs) = List.replicate bs.length false := by
  have hpulses := bitsTaken_flatten_of_pulses (l := l.after (.di false)) (ts := bs.map rxBitEvents)
    (List.forall_mem_map.mpr fun b _ => by simp [rxBitEvents, Lines.after, hsk])
    (List.forall_mem_map.mpr fun b _ => by simp [rxBitEvents, bitsTaken, Lines.after, hcs, hsk])
  rw [rxEvents, bitsTaken, if_neg (by simp), List.flatMap_def, hpulses.2, List.length_map]
  rfl

theorem bitsTaken_readEvents (l : Lines) (a : Addr) (bs : List Bool) :
    bitsTaken l (readEvents a bs) = (Frame.read a).bits ++ List.replicate bs.length false := by
  have hlines := Lines.afterAll_groupEvents (l.after (.cs true)) (.read a)
  rw [readEvents, bitsTaken_append, List.cons_append, bitsTaken, if_neg (by simp), bitsTaken_append,
    bitsTaken_groupEvents _ _ rfl, hlines, bitsTaken_rxEvents _ _ rfl rfl]
  simp [bitsTaken]

theorem samplesOf_readEvents (a : Addr) (bs : List Bool) : samplesOf (readEvents a bs) = bs := by
  rw [readEvents, samplesOf_append, List.cons_append, samplesOf, samplesOf_append, samplesOf_groupEvents,
    samplesOf_rxEvents]
  simp [samplesOf]

/-- An address as it was latched from its own value (R62). -/
@[simp] theorem trunc6_of_toNat (a : Addr) : trunc6 a.toNat = a := by
  rw [trunc6, BitVec.ofNat_toNat, BitVec.setWidth_eq]

/-- Settles O9: the events of `READ` are the groups of its frame, then those of `receive-word`. -/
theorem readFrameFormat : Obligations.ReadFrameFormat := by
  intro a
  refine ⟨rfl, rfl, Frame.read_value_extractLsb' a 1 (by decide), Frame.read_value_extractLsb' a 2 (by decide),
    Frame.read_value_address a, fun s => ⟨_, _, exec_read a.toNat s, rfl, ?_, samplesOf_readEvents _ _⟩⟩
  rw [bitsTaken_readEvents, State.answers_length, trunc6_of_toNat]
  rfl

/-! ## The poll on the wire (R85, R130) -/

theorem State.answers_eq_replicate_false {s : State} {n : Nat} (h : ∀ j < n, s.answer j = false) :
    s.answers n = List.replicate n false :=
  List.eq_replicate_iff.mpr ⟨s.answers_length n, by simpa [State.answers] using h⟩

/-- The samples of a poll that sees ready: its last one, and no other, is 1. -/
theorem State.answers_of_firstReady_some {s : State} {n k : Nat} (h : s.firstReady n = some k) :
    s.answers (k + 1) = List.replicate k false ++ [true] := by
  obtain ⟨hready, -, hbefore⟩ := List.find?_range_eq_some.mp h
  rw [State.answers, List.range_succ, List.map_append, List.map_singleton, hready, ← State.answers,
    State.answers_eq_replicate_false (by simpa using hbefore)]

/-- The samples of a poll that reaches the ceiling: none is 1. -/
theorem State.answers_of_firstReady_none {s : State} {n : Nat} (h : s.firstReady n = none) :
    s.answers n = List.replicate n false :=
  State.answers_eq_replicate_false (by simpa using List.find?_range_eq_none.mp h)

/-- The not-ready iterations of a poll: each is one pulse with `DI` at 0 (R130). -/
theorem bitsTaken_notReady (k : Nat) :
    (Lines.mk true false false).afterAll (List.replicate k notReadyEvents).flatten = ⟨true, false, false⟩ ∧
      bitsTaken ⟨true, false, false⟩ (List.replicate k notReadyEvents).flatten = List.replicate k false := by
  have hpulses := bitsTaken_flatten_of_pulses (l := ⟨true, false, false⟩) (ts := List.replicate k notReadyEvents)
    (fun t ht => List.eq_of_mem_replicate ht ▸ rfl) (fun t ht => List.eq_of_mem_replicate ht ▸ rfl)
  rwa [List.length_replicate] at hpulses

theorem samplesOf_notReady (k : Nat) :
    samplesOf (List.replicate k notReadyEvents).flatten = List.replicate k false := by
  have piece : samplesOf notReadyEvents = [false] := rfl
  rw [← List.flatMap_id, samplesOf_flatMap, List.flatMap_replicate, id, piece, List.flatten_replicate_singleton]

/-- A poll clocks one bit 0 for each sample, from every line state (R85, R130). -/
theorem bitsTaken_pollEvents (l : Lines) (s : State) (n : Nat) :
    bitsTaken l (s.pollEvents n) = List.replicate (s.pollSamples n) false := by
  have opened : l.afterAll [.di false, .sk false, .cs true] = ⟨true, false, false⟩ := rfl
  cases h : s.firstReady n with
  | some k =>
    obtain ⟨hl, hb⟩ := bitsTaken_notReady k
    simp only [State.pollEvents, State.pollSamples, h, readyEvents, bitsTaken_append, Lines.afterAll_append,
      opened, hl, hb]
    simp [bitsTaken, Lines.after, List.replicate_succ']
  | none =>
    simp only [State.pollEvents, State.pollSamples, h, timeoutEvents, bitsTaken_append, Lines.afterAll_append,
      opened, (bitsTaken_notReady n).2]
    simp [bitsTaken]

/-- The samples of a poll, in order (R130). -/
theorem samplesOf_pollEvents (s : State) (n : Nat) :
    samplesOf (s.pollEvents n) = s.answers (s.pollSamples n) := by
  cases h : s.firstReady n with
  | some k =>
    simp [State.pollEvents, State.pollSamples, h, readyEvents, samplesOf_append, samplesOf_notReady, samplesOf,
      State.answers_of_firstReady_some h]
  | none =>
    simp [State.pollEvents, State.pollSamples, h, timeoutEvents, samplesOf_append, samplesOf_notReady, samplesOf,
      State.answers_of_firstReady_none h]

/-- Settles O10: `INIT` raises no clock, and the events of `WAITRDY` are those of a poll. -/
theorem initializeAndPollSendNoFrame : Obligations.InitializeAndPollSendNoFrame := by
  intro s
  exact ⟨⟨_, _, exec_init s, rfl, rfl, rfl, rfl⟩,
    ⟨_, _, exec_waitrdy s, rfl, bitsTaken_pollEvents s.lines s _, samplesOf_pollEvents s _⟩⟩

end Sys2Proof.Machine
end

section
/-! SUPPORT and PROOFS for 40_transport.md: the transport primitives as instructions (R100). -/

namespace Sys2Proof.Machine

/-- `TXBITS` in its domain: the whole effect of `transmit-bits` (R100). -/
theorem exec_txbits (v : Word) {c : Nat} (s : State) (h : c ≤ 16) :
    exec (.txbits v c) s = .next { s with
      sk := false
      di := if c = 0 then s.di else v.getLsbD 0
      trace := s.trace ++ txEvents v c } := by
  rw [exec, execTxbits, if_pos h, transmitBits_eq]

/-- `TXBITS` outside its domain is refused by name (R100, U15). -/
theorem exec_txbits_refused (v : Word) {c : Nat} (s : State) (h : 16 < c) :
    exec (.txbits v c) s = .refused .countOutOfRange := by
  rw [exec, execTxbits, if_neg (Nat.not_le.mpr h)]

/-- Settles O11: the two cases of the count, the events by the definition of `txEvents`. -/
theorem transmitBitsEffect : Obligations.TransmitBitsEffect := by
  intro v c s
  refine ⟨fun h => ?_, exec_txbits_refused v s⟩
  rw [exec_txbits v s h, txEvents, ← List.append_assoc]
  rfl

end Sys2Proof.Machine
end

section
/-! SUPPORT and PROOFS for 44_declared_unimplemented.md: which instructions a request can stand for (R88), and the
eight declared operations, for which none does (R140). -/

namespace Sys2Proof

/-! ## Requests stand for requestable instructions only (R87, R88) -/

/-- Whatever its code, a request stands for an instruction that the host can request. -/
theorem decodeRequest_requestable (r : Request) : (decodeRequest r).requestable = true := by
  rw [decodeRequest]
  cases OpCode.ofCode r.op <;> rfl

theorem decodeRequest_ne {i : Instr} (hi : i.requestable = false) (r : Request) : decodeRequest r ≠ i := by
  rintro rfl
  exact Bool.eq_false_iff.mp hi (decodeRequest_requestable r)

/-- What the host cannot request has no request code. -/
theorem encodeRequest_eq_none {i : Instr} (hi : i.requestable = false) : encodeRequest i = none := by
  cases i with
  | init | ewen | ewds | read | write | waitrdy | reserved6 | reserved7 => cases hi
  | txbits | txaddr | txword | rxword | erase | eral | wral | mlread | mlwrite | eepTest | checkrdy
  | eepEnd => rfl

end Sys2Proof

namespace Sys2Proof.Machine

/-- Settles O22: the eight operations are not requestable, and the arm of each refuses it by its header name. -/
theorem declaredOperationsAreRefused : Obligations.DeclaredOperationsAreRefused := by
  have notRequestable : ∀ i ∈ [Instr.erase, .eral, .wral, .mlread, .mlwrite, .eepTest, .checkrdy, .eepEnd],
      i.requestable = false := by decide
  refine ⟨fun i hi => ?_, fun s => ⟨rfl, rfl, rfl, rfl, rfl, rfl, rfl, rfl⟩⟩
  exact ⟨encodeRequest_eq_none (notRequestable i hi), decodeRequest_ne (notRequestable i hi)⟩

end Sys2Proof.Machine
end

section
/-! SUPPORT and PROOFS for 70_reset_and_hazards.md: the canonical counts of events, delays, samples and clock pulses
(R200), and when the sequencer changes `DI` (R196). -/

namespace Sys2Proof.Machine

/-! ## Counting a trace (R9, R200) -/

/-- A trace, from the lines `l`: how many events, delays, samples and clock pulses it holds. It leaves the clock
inactive, so that the counts of a trace that follows it add up. -/
structure CountsFrom (l : Lines) (t : List Event) (events delays samples pulses : Nat) : Prop where
  events   : t.length = events
  delays   : delaysOf t = delays
  samples  : (samplesOf t).length = samples
  pulses   : pulsesOf l t = pulses
  inactive : (l.afterAll t).sk = false

/-- A drive that begins no pulse: of `CS`, of `DI`, or of `SK` to inactive. -/
def Event.isPulseFreeDrive : Event → Bool
  | .cs _ | .di _ | .sk false => true
  | .sk true | .dly | .smp _ => false

section
variable {l : Lines} {t u : List Event} {n d m p n' d' m' p' : Nat}

theorem CountsFrom.nil (h : l.sk = false) : CountsFrom l [] 0 0 0 0 := ⟨rfl, rfl, rfl, rfl, h⟩

theorem CountsFrom.append (ht : CountsFrom l t n d m p) (hu : CountsFrom (l.afterAll t) u n' d' m' p') :
    CountsFrom l (t ++ u) (n + n') (d + d') (m + m') (p + p') where
  events := by rw [List.length_append, ht.events, hu.events]
  delays := by rw [delaysOf_append, ht.delays, hu.delays]
  samples := by rw [samplesOf_append, List.length_append, ht.samples, hu.samples]
  pulses := by rw [pulsesOf_append u ht.inactive, ht.pulses, hu.pulses]
  inactive := by rw [Lines.afterAll_append, hu.inactive]

/-- A drive that begins no pulse takes part in none, whether it shows at the pins or not. -/
theorem pulsesOf_cons_of_isPulseFreeDrive {e : Event} (he : e.isPulseFreeDrive = true) :
    pulsesOf l (e :: t) = pulsesOf (l.after e) t := by
  by_cases hr : e.redundant l = true
  · rw [pulsesOf, pinTrace, if_pos hr, Lines.after_of_redundant hr, pulsesOf]
  · rw [pulsesOf, pinTrace, if_neg hr, pulsesOf]
    cases e with
    | cs | di => rfl
    | sk b =>
      cases b with
      | false => exact Nat.zero_add _
      | true => cases he
    | dly | smp => cases he

/-- Drives that begin no pulse, before a trace, add events only; the clock may be active before them. -/
theorem CountsFrom.after_drives (ht : t.all Event.isPulseFreeDrive = true)
    (hu : CountsFrom (l.afterAll t) u n d m p) : CountsFrom l (t ++ u) (n + t.length) d m p := by
  induction t generalizing l with
  | nil => simpa using hu
  | cons e t ih =>
    obtain ⟨he, ht⟩ := by simpa using ht
    obtain ⟨hn, hd, hm, hp, hi⟩ := ih (by simpa using ht) hu
    refine ⟨?_, ?_, ?_, (pulsesOf_cons_of_isPulseFreeDrive he).trans hp, hi⟩
    · rw [List.cons_append, List.length_cons, hn, List.length_cons, Nat.add_assoc]
    · cases e with
      | cs | di | sk => simpa [delaysOf] using hd
      | dly | smp => cases he
    · cases e with
      | cs | di | sk => exact hm
      | dly | smp => cases he

/-- Drives that begin no pulse and leave the clock inactive. -/
theorem CountsFrom.of_drives (ht : t.all Event.isPulseFreeDrive = true) (h : (l.afterAll t).sk = false) :
    CountsFrom l t t.length 0 0 0 := by
  simpa using CountsFrom.after_drives ht (.nil h)

/-- Pieces with the same counts, wherever the clock is inactive. -/
theorem CountsFrom.flatMap {α : Type} {f : α → List Event} (xs : List α)
    (piece : ∀ x l, l.sk = false → CountsFrom l (f x) n d m p) (h : l.sk = false) :
    CountsFrom l (xs.flatMap f) (n * xs.length) (d * xs.length) (m * xs.length) (p * xs.length) := by
  induction xs generalizing l with
  | nil => simpa using CountsFrom.nil h
  | cons x xs ih =>
    have hx := piece x l h
    simpa [Nat.mul_succ, Nat.add_comm] using hx.append (ih hx.inactive)

end

/-! ## The counts of frames and transactions (R100, R111, R112, R121) -/

/-- One sent bit from the data phase on, with the `SK(0)` that ends its pulse. -/
def bitPulse (b : Bool) : List Event := [.dly, .di b, .dly, .sk true, .dly, .sk false]

/-- `transmit-bits`, cut at the inactive clock: an opening `SK(0)`, then one pulse for each bit. -/
theorem txEvents_eq_pulses (v : Word) (c : Nat) :
    txEvents v c = [.sk false] ++ (msbFirst v c).flatMap bitPulse := by
  rw [txEvents]
  induction msbFirst v c with
  | nil => rfl
  | cons b bs ih => simp_all [bitEvents, bitPulse]

theorem countsFrom_bitPulse (b : Bool) (l : Lines) (h : l.sk = false) : CountsFrom l (bitPulse b) 6 3 0 1 := by
  refine ⟨rfl, rfl, rfl, ?_, rfl⟩
  obtain ⟨cs, sk, di⟩ := l
  cases h
  cases b <;> cases di <;> rfl

theorem countsFrom_txEvents (l : Lines) (v : Word) (c : Nat) :
    CountsFrom l (txEvents v c) (6 * c + 1) (3 * c) 0 c := by
  have hbits := CountsFrom.flatMap (l := l.after (.sk false)) (msbFirst v c) countsFrom_bitPulse rfl
  rw [txEvents_eq_pulses]
  simpa using CountsFrom.after_drives (t := [.sk false]) rfl hbits

/-- Groups sent one after the other, at least one. -/
theorem countsFrom_txGroups (l : Lines) (g : Word × Nat) (gs : List (Word × Nat)) :
    CountsFrom l ((g :: gs).flatMap fun g => txEvents g.1 g.2)
      (6 * ((g :: gs).map Prod.snd).sum + (g :: gs).length) (3 * ((g :: gs).map Prod.snd).sum) 0
      ((g :: gs).map Prod.snd).sum := by
  induction gs generalizing l g with
  | nil => simpa using countsFrom_txEvents l g.1 g.2
  | cons g' gs ih =>
    rw [List.flatMap_cons]
    convert (countsFrom_txEvents l g.1 g.2).append (ih _ g') using 1 <;> simp <;> omega

/-- A frame: six events and three delays a bit, and the closing `SK(0)` of each group. -/
theorem countsFrom_groupEvents (l : Lines) (f : Frame) :
    CountsFrom l (groupEvents f) (6 * f.length + f.groups.length) (3 * f.length) 0 f.length := by
  cases f <;> exact countsFrom_txGroups l _ _

theorem countsFrom_transactionEvents (l : Lines) (f : Frame) :
    CountsFrom l (transactionEvents f) (6 * f.length + f.groups.length + 3) (3 * f.length) 0 f.length := by
  have hframe := countsFrom_groupEvents (l.after (.cs true)) f
  exact .after_drives (t := [.cs true]) rfl
    (hframe.append (.of_drives (t := [.cs false, .di false]) rfl hframe.inactive))

/-! ## The counts of the received word (R103, R120) -/

theorem countsFrom_rxBitEvents (b : Bool) (l : Lines) (h : l.sk = false) :
    CountsFrom l (rxBitEvents b) 5 2 1 1 := by
  refine ⟨rfl, rfl, rfl, ?_, rfl⟩
  obtain ⟨cs, sk, di⟩ := l
  cases h
  rfl

theorem countsFrom_rxEvents {l : Lines} (bs : List Bool) (h : l.sk = false) :
    CountsFrom l (rxEvents bs) (5 * bs.length + 1) (2 * bs.length) bs.length bs.length := by
  have hbits := CountsFrom.flatMap (l := l.after (.di false)) bs countsFrom_rxBitEvents h
  simpa [rxEvents] using CountsFrom.after_drives (t := [.di false]) rfl hbits

theorem countsFrom_readEvents (l : Lines) (a : Addr) {bs : List Bool} (h : bs.length = 16) :
    CountsFrom l (readEvents a bs) 141 59 16 25 := by
  have hframe := countsFrom_groupEvents (l.after (.cs true)) (.read a)
  have hword := hframe.append (countsFrom_rxEvents bs hframe.inactive)
  have hclose := hword.append (.of_drives (t := [.cs false, .di false]) rfl hword.inactive)
  rw [h] at hclose
  exact .after_drives (t := [.cs true]) rfl hclose

/-! ## The counts of the poll (R130) -/

/-- One iteration of a poll, whatever it samples. -/
theorem countsFrom_pollPulse (b : Bool) (l : Lines) (h : l.sk = false) :
    CountsFrom l [.sk true, .smp b, .sk false] 3 0 1 1 := by
  refine ⟨rfl, rfl, rfl, ?_, rfl⟩
  obtain ⟨cs, sk, di⟩ := l
  cases h
  rfl

theorem countsFrom_notReady {l : Lines} (k : Nat) (h : l.sk = false) :
    CountsFrom l (List.replicate k notReadyEvents).flatten (3 * k) 0 k k := by
  have hpieces := CountsFrom.flatMap (List.replicate k ()) (fun _ => countsFrom_pollPulse false) h
  simpa [List.flatMap_def, notReadyEvents] using hpieces

/-- A poll that sees ready: its last iteration closes with `CS(0)`. -/
theorem countsFrom_readyEvents (l : Lines) (k : Nat) : CountsFrom l (readyEvents k) (3 * k + 7) 0 (k + 1) (k + 1) := by
  have hnot := countsFrom_notReady (l := l.afterAll [.di false, .sk false, .cs true]) k rfl
  have hready := (countsFrom_pollPulse true _ hnot.inactive).append (.of_drives (t := [.cs false]) rfl rfl)
  rw [readyEvents, List.append_assoc]
  exact .after_drives rfl (hnot.append hready)

theorem countsFrom_timeoutEvents (l : Lines) (n : Nat) : CountsFrom l (timeoutEvents n) (3 * n + 4) 0 n n := by
  have hnot := countsFrom_notReady (l := l.afterAll [.di false, .sk false, .cs true]) n rfl
  rw [timeoutEvents, List.append_assoc]
  exact .after_drives rfl (hnot.append (.of_drives (t := [.cs false]) rfl hnot.inactive))

/-- A poll: one pulse a sample, and three events a sample besides the four that open and close it, whether it sees
ready or not. -/
theorem countsFrom_pollEvents (l : Lines) (s : State) (n : Nat) :
    CountsFrom l (s.pollEvents n) (3 * s.pollSamples n + 4) 0 (s.pollSamples n) (s.pollSamples n) := by
  rw [State.pollEvents, State.pollSamples]
  cases s.firstReady n with
  | some k => exact countsFrom_readyEvents l k
  | none => exact countsFrom_timeoutEvents l n

/-- The four transactions of a `write` (R121). -/
theorem countsFrom_writeEvents (l : Lines) (s : State) (n : Nat) (a : Addr) (w : Word) :
    CountsFrom l
      (transactionEvents .ewen ++ transactionEvents (.write a w) ++ s.pollEvents n ++ transactionEvents .ewds)
      (3 * s.pollSamples n + 283) 129 (s.pollSamples n) (s.pollSamples n + 43) := by
  have hall := (((countsFrom_transactionEvents l .ewen).append (countsFrom_transactionEvents _ (.write a w))).append
    (countsFrom_pollEvents _ s n)).append (countsFrom_transactionEvents _ .ewds)
  convert hall using 1 <;> simp [Frame.length, Frame.groups] <;> omega

theorem exec_rxword (s : State) : exec .rxword s = .next { s.consumed 16 with
    sk := false, di := false
    rxacc := wordOfSamples (s.answers 16), rxcnt := 0
    trace := s.trace ++ rxEvents (s.answers 16) } := by
  rw [exec, execRxword, receiveWord_eq]

/-- Settles O28: the counts of each operation's events. -/
theorem canonicalEventCounts : Obligations.CanonicalEventCounts := by
  refine ⟨fun s => ?_, fun s hsk => ?_, fun s => ?_, fun s => ?_, fun a s => ?_, fun s => ?_, fun a w s => ?_⟩
  · obtain ⟨hn, hd, hm, hp, -⟩ :=
      CountsFrom.of_drives (l := s.lines) (t := [.cs false, .sk false, .di false]) rfl rfl
    exact ⟨_, _, exec_init s, rfl, hn, hd, hm, hp⟩
  · obtain ⟨hn, hd, hm, hp, -⟩ := countsFrom_rxEvents (l := s.lines) (s.answers 16) hsk
    rw [s.answers_length] at hn hd hm hp
    exact ⟨_, _, exec_rxword s, rfl, hn, hd, hm, hp⟩
  · obtain ⟨hn, hd, hm, hp, -⟩ := countsFrom_transactionEvents s.lines .ewen
    exact ⟨_, _, exec_ewen s, rfl, hn, hd, hm, hp⟩
  · obtain ⟨hn, hd, hm, hp, -⟩ := countsFrom_transactionEvents s.lines .ewds
    exact ⟨_, _, exec_ewds s, rfl, hn, hd, hm, hp⟩
  · obtain ⟨hn, hd, hm, hp, -⟩ := countsFrom_readEvents s.lines (trunc6 a) (s.answers_length 16)
    exact ⟨_, _, exec_read a s, rfl, hn, hd, hm, hp⟩
  · obtain ⟨hn, hd, hm, hp, -⟩ := countsFrom_pollEvents s.lines s s.params.pollCeiling.toNat
    refine ⟨_, _, exec_waitrdy s, rfl, hd, ?_⟩
    cases h : s.firstReady s.params.pollCeiling.toNat <;> simp only [State.pollSamples, h] at hn hm hp
    · exact ⟨hn, hm, hp⟩
    · exact ⟨hn, hm, hp⟩
  · obtain ⟨hn, hd, hm, hp, -⟩ := countsFrom_writeEvents s.lines s s.params.pollCeiling.toNat (trunc6 a) w
    refine ⟨_, _, exec_write a w s, rfl, hd, ?_⟩
    cases h : s.firstReady s.params.pollCeiling.toNat <;> simp only [State.pollSamples, h] at hn hm hp
    · exact ⟨hn, hm, hp⟩
    · exact ⟨hn, hm, by omega⟩

/-! ## The rows that change `DI` (R196) -/

section
variable {s t u : State}

theorem di_of_goOn {x : SeqStep} (h : u.goOn x = .next t) (hu : u.di = s.di := by rfl) : t.di = s.di := by
  cases h; exact hu

theorem acceptRow_di (s : State) (r : Request) : (s.acceptRow r).di = s.di := by
  unfold State.acceptRow
  split <;> rfl

theorem di_of_pollEndRow {v : Bool} (h : (s.driveCs false).pollEndRow v = .next t) : t.di = s.di := by
  unfold State.pollEndRow at h
  split at h
  case h_1 => cases h; rfl
  case h_2 => exact di_of_goOn h
  all_goals cases h

/-- Only the five rows of R31 that drive `DI` change it. -/
theorem row_of_di_changes (h : tick s = .next t) (hdi : t.di ≠ s.di) :
    s.step = .w0 ∨ s.step = .i2 ∨ s.step = .t2 ∨ s.step = .x0 ∨ s.step = .e1 := by
  cases hstep : s.step with
  | i2 | t2 | x0 | e1 | w0 => decide
  | idle =>
    refine absurd ?_ hdi
    cases hf : s.fetch with
    | none => rw [tick_idle_none hstep hf] at h; cases h; rfl
    | some p =>
      obtain ⟨-, rest, -, hs1⟩ := fetch_eq_some hf
      rw [tick_idle_some hstep hf, hs1] at h
      cases h
      exact acceptRow_di _ _
  | f0 =>
    cases hf : s.frame with
    | none => simp [tick, hstep, hf] at h
    | some f => exact absurd (di_of_goOn (tick_f0 hstep hf ▸ h)) hdi
  | w7 => exact absurd (di_of_pollEndRow (tick_w7 hstep ▸ h)) hdi
  | w8 => exact absurd (di_of_pollEndRow (tick_w8 hstep ▸ h)) hdi
  | t5 | x5 =>
    simp only [tick, hstep] at h
    split at h
    · cases h
    · exact absurd (di_of_goOn h) hdi
  | i0 | i1 | t0 | t1 | t3 | t4 | t6 | x1 | x2 | x3 | x4 | e0 | w1 | w2 | w3 | w4 | w5 | w6 =>
    simp only [tick, hstep] at h
    exact absurd (di_of_goOn h) hdi

end

/-- Settles O37: each row that changes `DI`, the opening of a poll apart, has the clock inactive by its invariant. -/
theorem dataInChangesOnlyWhileClockLow : Obligations.DataInChangesOnlyWhileClockLow := by
  intro s t hinv h _ hw0 hdi
  have fits := hinv.fits
  obtain hs | hs | hs | hs := (row_of_di_changes h hdi).resolve_left hw0
  all_goals
    simp only [State.fitsRow, hs, Bool.and_eq_true, Bool.not_eq_true'] at fits
    exact fits.2

end Sys2Proof.Machine
end

section
/-! SUPPORT and PROOFS for 30_encoding.md: request packets and frames, there and back. -/

namespace Sys2Proof

/-! ## Request packets (R33, R88; log 6) -/

/-- The request that stands for an instruction decodes to it, and fits on the port if its operands are in range. -/
theorem encodeRequest_of_wellFormed {p : Params} {i : Instr} (hr : i.requestable = true)
    (hw : i.wellFormed p = true) :
    ∃ r, encodeRequest i = some r ∧ decodeRequest r = i ∧ r.fits p = true := by
  cases i with
  | init | ewen | ewds | waitrdy | reserved6 | reserved7 =>
    exact ⟨_, rfl, rfl, Laws.RequestRoundTrip.fits_zero p _ _⟩
  | read | write => exact ⟨_, rfl, rfl, hw⟩
  | txbits | txaddr | txword | rxword | erase | eral | wral | mlread | mlwrite | eepTest | checkrdy
  | eepEnd => cases hr

/-- Settles O3: the instruction's request is read back from its packet, and decodes to the instruction. -/
theorem encodedInstructionDecodesBack : Obligations.EncodedInstructionDecodesBack := by
  intro p i hr hw
  obtain ⟨r, henc, hdec, hfits⟩ := encodeRequest_of_wellFormed hr hw
  refine ⟨packRequest p r, ?_, ?_⟩
  · rw [encodePacket, henc, Option.map_some]
  · rw [decodePacket, parsePacket_packRequest hfits, ← hdec]

/-- What is read from a packet fits on the port (R33). -/
theorem fits_of_parsePacket {p : Params} {bytes : List Byte} {r : Request} (h : parsePacket p bytes = .ok r) :
    r.fits p = true := by
  unfold parsePacket at h
  split at h
  · split at h
    · cases h
    · split at h
      · cases h
      · next hlt =>
        cases h
        exact decide_eq_true (Nat.lt_of_not_le hlt)
  · cases h

/-- A request that fits on the port stands for an instruction with its operands in range. -/
theorem decodeRequest_wellFormed {p : Params} {r : Request} (h : r.fits p = true) :
    (decodeRequest r).wellFormed p = true := by
  unfold decodeRequest
  cases OpCode.ofCode r.op with
  | read | write => exact h
  | init | ewen | ewds | waitrdy | reserved6 | reserved7 => rfl

/-- Settles O4: what decodes is the instruction of a request that was on the port. -/
theorem decodedInstructionIsWellFormed : Obligations.DecodedInstructionIsWellFormed := by
  intro p bytes i h
  rw [decodePacket] at h
  cases hparse : parsePacket p bytes with
  | error e => simp [hparse] at h
  | ok r =>
    obtain rfl : decodeRequest r = i := by simpa [hparse] using h
    exact ⟨decodeRequest_requestable r, decodeRequest_wellFormed (fits_of_parsePacket hparse)⟩

/-- Settles O2: the decoder run on each word. -/
theorem tableWordsDecode : Obligations.TableWordsDecode :=
  ⟨rfl, rfl, rfl, rfl, rfl, rfl, rfl, rfl, rfl, rfl, rfl⟩

/-! ## Frames and their bits (R80 to R84) -/

/-- A field is read back from its bits, whatever the width of the value that holds it. -/
theorem ofNat_natOfBits_msbFirst {w : Nat} (v : BitVec w) (n : Nat) :
    BitVec.ofNat n (natOfBits (msbFirst v n)) = v.setWidth n := by
  rw [natOfBits_msbFirst]
  exact BitVec.eq_of_toNat_eq (by simp)

/-- The bits of a read frame: start bit, opcode, address (R84). -/
theorem Frame.bits_read (a : Addr) : (Frame.read a).bits = [true, true, false] ++ msbFirst (a.setWidth 16) 6 := by
  rw [← Frame.flatMap_groups]
  rfl

/-- The bits of a write frame: start bit, opcode, address, word (R83). -/
theorem Frame.bits_write (a : Addr) (d : Word) :
    (Frame.write a d).bits = [true, false, true] ++ (msbFirst (a.setWidth 16) 6 ++ msbFirst d 16) := by
  rw [← Frame.flatMap_groups]
  rfl

/-- Settles O5: each field of a frame is read back from its bits. -/
theorem frameBitsParseBack : Obligations.FrameBitsParseBack := by
  refine fun f => ⟨Machine.msbFirst_length _ _, ?_⟩
  cases f with
  | ewen | ewds => rfl
  | read a => simp [Frame.bits_read, parseFrame, ofNat_natOfBits_msbFirst]
  | write a d => simp [Frame.bits_write, parseFrame, ofNat_natOfBits_msbFirst]

theorem msbFirst_setWidth {w v n : Nat} (x : BitVec w) (h : n ≤ v) :
    msbFirst (x.setWidth v) n = msbFirst x n := by
  induction n with
  | zero => rfl
  | succ n ih => simp [msbFirst, ih (by omega), show n < v by omega]

/-- The bits of a field that was read from bits are those bits. -/
theorem msbFirst_ofNat_natOfBits {n : Nat} {bs : List Bool} (h : bs.length = n) :
    msbFirst (BitVec.ofNat n (natOfBits bs)) n = bs := by
  subst h
  simpa using msbFirst_natOfBits bs.length bs 0 (Nat.le_refl _)

/-- Settles O6: along the branches of `parseFrame` that read a frame. -/
theorem parsedBitsAreTheFrame : Obligations.ParsedBitsAreTheFrame := by
  intro bits f h
  unfold parseFrame at h
  split at h
  case h_2 rest =>
    split at h
    · next hlen =>
      cases h
      refine ⟨by simp [Frame.length, hlen], ?_⟩
      rw [Frame.bits_read, msbFirst_setWidth _ (by decide), msbFirst_ofNat_natOfBits hlen]
      rfl
    · cases h
  case h_3 rest =>
    split at h
    · next hlen =>
      cases h
      refine ⟨by simp [Frame.length, hlen], ?_⟩
      rw [Frame.bits_write, msbFirst_setWidth _ (by decide), msbFirst_ofNat_natOfBits (by simp [hlen]),
        msbFirst_ofNat_natOfBits (by simp [hlen]), List.take_append_drop]
      rfl
    · cases h
  case h_4 | h_5 =>
    split at h
    · next hlen =>
      cases h
      exact ⟨by simp [Frame.length, hlen], rfl⟩
    · cases h
  all_goals cases h

end Sys2Proof
end

section

namespace Sys2Proof.Machine

/-! ## The write operation on the wire (R83, R121, R130) -/

/-- The write frame is its fields, one after the other (R83): start bit and opcode, address, word. -/
theorem write_value_eq_append (a : Addr) (d : Word) : (Frame.write a d).value = 0b101#3 ++ a ++ d := by
  apply BitVec.eq_of_getLsbD_eq
  intro i hi
  simp only [Frame.value, BitVec.getLsbD_or, BitVec.getLsbD_shiftLeft, BitVec.getLsbD_setWidth, BitVec.getLsbD_append]
  interval_cases i <;> simp

/-- A field of the write frame above its word is a field of what stands above the word. -/
theorem write_value_extractLsb' (a : Addr) (d : Word) (start len : Nat) (h : 16 ≤ start) :
    (Frame.write a d).value.extractLsb' start len = (0b101#3 ++ a).extractLsb' (start - 16) len := by
  rw [write_value_eq_append, BitVec.extractLsb'_append_eq_of_le h]

theorem bitsTaken_writeEvents (l : Lines) (s : State) (n : Nat) (a : Addr) (w : Word) :
    bitsTaken l
      (transactionEvents .ewen ++ transactionEvents (.write a w) ++ s.pollEvents n ++ transactionEvents .ewds) =
    Frame.ewen.bits ++ (Frame.write a w).bits ++ List.replicate (s.pollSamples n) false ++ Frame.ewds.bits := by
  simp only [bitsTaken_append, bitsTaken_transactionEvents, bitsTaken_pollEvents]

/-- Only the poll of a `write` samples (R121). -/
theorem samplesOf_writeEvents (s : State) (n : Nat) (a : Addr) (w : Word) :
    samplesOf
      (transactionEvents .ewen ++ transactionEvents (.write a w) ++ s.pollEvents n ++ transactionEvents .ewds) =
    s.answers (s.pollSamples n) := by
  simp [samplesOf_append, samplesOf_transactionEvents, samplesOf_pollEvents]

/-- Settles O8: the events of `WRITE` are its four transactions, and the frame's value is its fields in a row. -/
theorem writeFrameFormat : Obligations.WriteFrameFormat := by
  intro a d
  refine ⟨rfl, rfl, ?_, ?_, ?_, ?_, fun s => ⟨_, _, exec_write a.toNat d s, rfl, ?_, ?_, ?_⟩⟩
  · rw [write_value_extractLsb' a d 24 1 (by decide), BitVec.extractLsb'_append_eq_of_le (by decide)]
    rfl
  · rw [write_value_extractLsb' a d 22 2 (by decide), BitVec.extractLsb'_append_eq_of_le (by decide)]
    rfl
  · rw [write_value_extractLsb' a d 16 6 (by decide), BitVec.extractLsb'_append_eq_of_add_le (by decide),
      BitVec.extractLsb'_eq_self]
  · rw [write_value_eq_append, BitVec.extractLsb'_append_eq_of_add_le (by decide), BitVec.extractLsb'_eq_self]
  · rw [bitsTaken_writeEvents, trunc6_of_toNat]
    rfl
  · exact samplesOf_writeEvents _ _ _ _
  · exact samplesOf_transactionEvents _

end Sys2Proof.Machine
end

section
/-! SUPPORT and PROOFS for 40_transport.md: the transport primitives, and the pin traces of what they send. -/

namespace Sys2Proof.Machine

/-! ## `DI` and the clock (R100, R196) -/

theorem diChangesOnlyLow_append (l : Lines) (t u : List Event) :
    diChangesOnlyLow l (t ++ u) = (diChangesOnlyLow l t && diChangesOnlyLow (l.afterAll t) u) := by
  induction t generalizing l with
  | nil => rfl
  | cons e t ih => simp only [List.cons_append, diChangesOnlyLow, ih, Bool.and_assoc, Lines.afterAll_cons]

/-- Each sent bit makes the clock inactive before it drives `DI` (R100). -/
theorem diChangesOnlyLow_bitEvents (l : Lines) (b : Bool) : diChangesOnlyLow l (bitEvents b) = true := by
  simp [bitEvents, diChangesOnlyLow, Lines.after]

theorem diChangesOnlyLow_bits (l : Lines) (bs : List Bool) : diChangesOnlyLow l (bs.flatMap bitEvents) = true := by
  induction bs generalizing l with
  | nil => rfl
  | cons b bs ih => rw [List.flatMap_cons, diChangesOnlyLow_append, diChangesOnlyLow_bitEvents, ih]; rfl

theorem diChangesOnlyLow_txEvents (l : Lines) (v : Word) (c : Nat) : diChangesOnlyLow l (txEvents v c) = true := by
  rw [txEvents, diChangesOnlyLow_append, diChangesOnlyLow_bits]
  rfl

/-- Settles O12: the counts of `txEvents`, and its bits one by one. -/
theorem transmitBitsPulsesAndDataWindow : Obligations.TransmitBitsPulsesAndDataWindow := by
  intro v c s hc
  obtain ⟨hn, hd, -, hp, -⟩ := countsFrom_txEvents s.lines v c
  exact ⟨_, _, exec_txbits v s hc, rfl, hp, hd, hn, diChangesOnlyLow_txEvents s.lines v c⟩

/-! ## Joining what is sent (R100, R32) -/

/-- An `SK(0)` before what begins with `SK(0)` does not show at the pins (R10, R100). -/
theorem pinTrace_sk_false_cons (l : Lines) (t : List Event) :
    pinTrace l (.sk false :: .sk false :: t) = pinTrace l (.sk false :: t) := by
  cases h : l.sk <;> simp [pinTrace, Event.redundant, Lines.after, h]

/-- Bits sent in two calls have the pin trace of one call: the first call's closing `SK(0)` is the next bit's own
(R100). -/
theorem pinTrace_txBits_join (l : Lines) (bs cs : List Bool) (t : List Event) :
    pinTrace l (bs.flatMap bitEvents ++ .sk false :: (cs.flatMap bitEvents ++ .sk false :: t)) =
      pinTrace l ((bs ++ cs).flatMap bitEvents ++ .sk false :: t) := by
  rw [List.flatMap_append, List.append_assoc, pinTrace_append, pinTrace_append l (bs.flatMap bitEvents)]
  congr 1
  cases cs with
  | nil => exact pinTrace_sk_false_cons _ _
  | cons c cs => exact pinTrace_sk_false_cons _ _

/-- Only its low bits decide what is sent of a value. -/
theorem msbFirst_congr {w w' : Nat} {v : BitVec w} {v' : BitVec w'} {n : Nat}
    (h : ∀ i < n, v.getLsbD i = v'.getLsbD i) : msbFirst v n = msbFirst v' n := by
  induction n with
  | zero => rfl
  | succ n ih => rw [msbFirst, msbFirst, h n (Nat.lt_succ_self n), ih fun i hi => h i (by omega)]

/-- The upper bits are sent first (R61). -/
theorem msbFirst_add {w : Nat} (v : BitVec w) (m n : Nat) :
    msbFirst v (m + n) = msbFirst (v >>> n) m ++ msbFirst v n := by
  induction m with
  | zero => rw [Nat.zero_add]; rfl
  | succ m ih => rw [Nat.succ_add, msbFirst, ih, msbFirst, BitVec.getLsbD_ushiftRight, Nat.add_comm n m]; rfl

/-- `v1` above the low `c` bits of `v2`, the joined value of two `TXBITS` (R100). -/
theorem getLsbD_join (v1 v2 : Word) (c i : Nat) (h : i < 16) :
    ((v1 <<< c) ||| BitVec.ofNat 16 (v2.toNat % 2 ^ c)).getLsbD i =
      if i < c then v2.getLsbD i else v1.getLsbD (i - c) := by
  have hlow : (BitVec.ofNat 16 (v2.toNat % 2 ^ c)).getLsbD i = (decide (i < c) && v2.getLsbD i) := by
    rw [BitVec.getLsbD_ofNat, Nat.testBit_mod_two_pow, decide_eq_true h, Bool.true_and]
    rfl
  rw [BitVec.getLsbD_or, BitVec.getLsbD_shiftLeft, hlow]
  by_cases hic : i < c <;> simp [h, hic]

/-- The bits of the joined value are those of its parts. -/
theorem msbFirst_join (v1 v2 : Word) {c1 c2 : Nat} (h : c1 + c2 ≤ 16) :
    msbFirst ((v1 <<< c2) ||| BitVec.ofNat 16 (v2.toNat % 2 ^ c2)) (c1 + c2) = msbFirst v1 c1 ++ msbFirst v2 c2 := by
  rw [msbFirst_add]
  congr 1
  · refine msbFirst_congr fun i hi => ?_
    rw [BitVec.getLsbD_ushiftRight, getLsbD_join v1 v2 c2 (c2 + i) (by omega), if_neg (by omega),
      Nat.add_sub_cancel_left]
  · refine msbFirst_congr fun i hi => ?_
    rw [getLsbD_join v1 v2 c2 i (by omega), if_pos hi]

/-- Settles O13: the pin traces by the joined bits, the end states by the last bit sent. -/
theorem transmitBitsCallsJoin : Obligations.TransmitBitsCallsJoin := by
  intro v1 v2 c1 c2 s h
  refine ⟨_, _, _, txEvents v1 c1 ++ txEvents v2 c2, _, exec_txbits v1 s (by omega), exec_txbits v2 _ (by omega),
    exec_txbits _ s h, List.append_assoc _ _ _, rfl, ?_, ?_⟩
  · rw [txEvents, txEvents, txEvents, msbFirst_join v1 v2 h, List.append_assoc]
    exact pinTrace_txBits_join s.lines _ _ []
  · have hdi := getLsbD_join v1 v2 c2 0 (by decide)
    cases c2 with
    | zero => simp only [State.noTrace, hdi, Nat.add_zero, if_true, Nat.lt_irrefl, if_false, Nat.sub_zero]
    | succ c2 => simp only [State.noTrace, hdi, ← Nat.add_assoc, Nat.succ_ne_zero, if_false, Nat.succ_pos, if_true]

/-! ## The primitives on an address and on a word (R101, R102) -/

/-- `TXADDR` is `TXBITS` of the low six bits of the address (R62, R101). -/
theorem exec_txaddr (a : Nat) (s : State) : exec (.txaddr a) s = exec (.txbits (BitVec.ofNat 16 (a % 64)) 6) s := by
  have haddr : (trunc6 a).setWidth 16 = BitVec.ofNat 16 (a % 64) :=
    BitVec.eq_of_toNat_eq (by rw [BitVec.toNat_setWidth, trunc6_toNat, BitVec.toNat_ofNat])
  rw [← haddr]
  rfl

/-- `TXWORD` is `TXBITS` of sixteen bits (R102). -/
theorem exec_txword (w : Word) (s : State) : exec (.txword w) s = exec (.txbits w 16) s := rfl

/-- Settles O14: the effect and the counts of `TXBITS` with count 6. -/
theorem transmitAddressEffect : Obligations.TransmitAddressEffect := by
  refine ⟨fun a s => ⟨exec_txaddr a s, ?_⟩, fun s => ?_⟩
  · obtain ⟨hn, hd, -, hp, -⟩ := countsFrom_txEvents s.lines (BitVec.ofNat 16 (a % 64)) 6
    refine ⟨_, _, (exec_txaddr a s).trans (exec_txbits _ s (by decide)), rfl, hn, hd, hp, ?_⟩
    have hdi : (BitVec.ofNat 16 (a % 64)).getLsbD 0 = a.testBit 0 := by
      rw [BitVec.getLsbD_ofNat, show 64 = 2 ^ 6 from rfl, Nat.testBit_mod_two_pow]
      simp
    rw [hdi]
    rfl
  · have hev : txEvents (BitVec.ofNat 16 (0x45 % 64)) 6 =
        ofLetters "k.d.K.k.d.K.k.d.K.k.D.K.k.d.K.k.D.K.k".toList := by
      decide
    rw [exec_txaddr, exec_txbits _ s (by decide), hev]
    rfl

/-- Settles O15: the effect and the counts of `TXBITS` with count 16. -/
theorem transmitWordEffect : Obligations.TransmitWordEffect := by
  intro w s
  obtain ⟨hn, hd, -, hp, -⟩ := countsFrom_txEvents s.lines w 16
  exact ⟨rfl, _, _, (exec_txword w s).trans (exec_txbits w s (by decide)), rfl, hn, hd, hp, rfl⟩

/-! ## The received word (R61, R103) -/

/-- Settles O16: the whole effect of `receive-word`, its events by the definition of `rxEvents`. -/
theorem receiveWordEffect : Obligations.ReceiveWordEffect := exec_rxword

theorem msbFirst_getElem {w : Nat} (v : BitVec w) {n k : Nat} (h : k < (msbFirst v n).length) :
    (msbFirst v n)[k] = v.getLsbD (n - 1 - k) := by
  induction n generalizing k with
  | zero => simp at h
  | succ n ih =>
    cases k with
    | zero => rfl
    | succ k =>
      simp only [msbFirst, List.getElem_cons_succ]
      rw [ih, Nat.add_sub_cancel, Nat.sub_sub, Nat.add_comm]

/-- The bits of a word of sixteen samples are the samples (R61). -/
theorem msbFirst_wordOfSamples {bs : List Bool} (h : bs.length = 16) : msbFirst (wordOfSamples bs) 16 = bs :=
  msbFirst_ofNat_natOfBits h

/-- In a word of samples the first is the most significant bit (R61). -/
theorem wordOfSamples_getLsbD {bs : List Bool} {k : Nat} (h : bs.length = 16) (hk : k < bs.length) :
    (wordOfSamples bs).getLsbD (15 - k) = bs[k] := by
  rw [← msbFirst_getElem (n := 16) (k := k) _ (by simpa [h] using hk)]
  simp only [msbFirst_wordOfSamples h]

/-- Settles O17: the word of the samples, bit by bit. -/
theorem receivedBitsAreMostSignificantFirst : Obligations.ReceivedBitsAreMostSignificantFirst := by
  intro s k hk
  refine ⟨_, exec_rxword s, ?_⟩
  rw [wordOfSamples_getLsbD (s.answers_length 16) (by simpa using hk)]
  simp [State.answers]

end Sys2Proof.Machine
end


section
/-! SUPPORT and PROOFS for 41_control_commands.md, 42_data_commands.md and 43_ready_poll.md: the whole effects, with
the spec's own traces. -/

namespace Sys2Proof.Machine

/-! ## The control operations (R89, R110 to R112) -/

/-- Settles O18: the equation of `INIT`. -/
theorem initializeEffect : Obligations.InitializeEffect := exec_init

/-- Settles O19: the equation of `EWEN`, and its transaction letter by letter. -/
theorem writeEnableEffect : Obligations.WriteEnableEffect := by
  intro s
  have hev : transactionEvents .ewen =
      ofLetters "Ck.D.K.kk.d.K.k.d.K.kk.D.K.k.D.K.kk.d.K.k.d.K.k.d.K.k.d.K.kcd".toList := by decide
  rw [exec_ewen, hev]
  rfl

/-- Settles O20: the equation of `EWDS`, and its transaction letter by letter. -/
theorem writeDisableEffect : Obligations.WriteDisableEffect := by
  intro s
  have hev : transactionEvents .ewds =
      ofLetters "Ck.D.K.kk.d.K.k.d.K.kk.d.K.k.d.K.kk.d.K.k.d.K.k.d.K.k.d.K.kcd".toList := by decide
  rw [exec_ewds, hev]
  rfl

/-- Settles O21: the equations of the two reserved codes. -/
theorem reservedCodesCompleteWithoutEvent : Obligations.ReservedCodesCompleteWithoutEvent :=
  fun s => ⟨exec_reserved6 s, exec_reserved7 s⟩

/-! ## The data operations (R120, R121) -/

/-- The latched address is the operand mod 64 (R62). -/
theorem trunc6_eq_mod (a : Nat) : trunc6 a = BitVec.ofNat 6 (a % 64) := (trunc6_mod a).symm

/-- The read frame's value, its address as a number (R84). -/
theorem read_value_trunc6 (a : Nat) : (Frame.read (trunc6 a)).value = 0x180#25 ||| BitVec.ofNat 25 (a % 64) := by
  have haddr : (trunc6 a).setWidth 25 = BitVec.ofNat 25 (a % 64) :=
    BitVec.eq_of_toNat_eq (by rw [BitVec.toNat_setWidth, trunc6_toNat, BitVec.toNat_ofNat])
  rw [Frame.value, haddr]

/-- Settles O23: the equation of `READ`, the address as a number. -/
theorem readEffect : Obligations.ReadEffect := by
  intro a s
  rw [exec_read, read_value_trunc6, trunc6_eq_mod]

/-- Settles O26: the equation of `WRITE`, the address as a number. -/
theorem writeEffect : Obligations.WriteEffect := by
  intro a w s
  rw [exec_write, trunc6_eq_mod]
  simp only [← List.append_assoc]
  rfl

/-! ## The poll (R130) -/

/-- Settles O24: the equation of `WAITRDY`. -/
theorem waitReadyEffect : Obligations.WaitReadyEffect := exec_waitrdy

/-- A poll sees ready if one of the samples it may take is 1. -/
theorem firstReady_isSome_iff (s : State) (n : Nat) :
    (s.firstReady n).isSome = true ↔ ∃ k, k < n ∧ s.answer k = true := by
  simp [State.firstReady, List.find?_isSome]

theorem pollSamples_le (s : State) (n : Nat) : s.pollSamples n ≤ n := by
  unfold State.pollSamples
  split
  · next k h => exact List.mem_range.mp (List.mem_of_find?_eq_some h)
  · exact Nat.le_refl n

/-- Settles O25: `OK` is what the poll sees. -/
theorem waitReadyReportsAnyReadySample : Obligations.WaitReadyReportsAnyReadySample := by
  intro s
  exact ⟨_, exec_waitrdy s, firstReady_isSome_iff s _, Nat.add_le_add_left (pollSamples_le s _) _⟩

end Sys2Proof.Machine
end

section
/-! SUPPORT and PROOFS for 00_scope.md: what the pin trace keeps (R10), and the grouping of a frame (R32). -/

namespace Sys2Proof.Machine

/-! ## What the pin trace keeps (R10) -/

/-- A redundant drive is no sample, no delay and no rising clock edge. -/
theorem drops_of_redundant {l : Lines} {e : Event} (h : e.redundant l = true) (t : List Event) :
    samplesOf (e :: t) = samplesOf t ∧ delaysOf (e :: t) = delaysOf t ∧ bitsTaken l (e :: t) = bitsTaken l t := by
  have hl := Lines.after_of_redundant h
  cases e with
  | cs b | di b => exact ⟨rfl, by simp [delaysOf], by rw [bitsTaken, if_neg (by simp), hl]⟩
  | sk b =>
    refine ⟨rfl, by simp [delaysOf], ?_⟩
    obtain rfl : l.sk = b := by simpa [Event.redundant] using h
    rw [bitsTaken, if_neg (by simp +contextual), hl]
  | dly | smp => cases h

/-- What a pin trace keeps of its first event, it keeps of the rest. -/
theorem pinTrace_pinTrace (l : Lines) (t : List Event) : pinTrace l (pinTrace l t) = pinTrace l t := by
  induction t generalizing l with
  | nil => rfl
  | cons e t ih =>
    by_cases h : e.redundant l = true
    · rw [pinTrace, if_pos h, ih]
    · rw [pinTrace, if_neg h, pinTrace, if_neg h, ih]

theorem samplesOf_pinTrace (l : Lines) (t : List Event) : samplesOf (pinTrace l t) = samplesOf t := by
  induction t generalizing l with
  | nil => rfl
  | cons e t ih =>
    by_cases h : e.redundant l = true
    · rw [pinTrace, if_pos h, ih, (drops_of_redundant h t).1]
    · rw [pinTrace, if_neg h]
      cases e <;> simp [samplesOf, ih]

theorem delaysOf_pinTrace (l : Lines) (t : List Event) : delaysOf (pinTrace l t) = delaysOf t := by
  induction t generalizing l with
  | nil => rfl
  | cons e t ih =>
    by_cases h : e.redundant l = true
    · rw [pinTrace, if_pos h, ih, (drops_of_redundant h t).2.1]
    · rw [pinTrace, if_neg h, delaysOf, List.countP_cons, ← delaysOf, ih, delaysOf, delaysOf, List.countP_cons]

theorem bitsTaken_pinTrace (l : Lines) (t : List Event) : bitsTaken l (pinTrace l t) = bitsTaken l t := by
  induction t generalizing l with
  | nil => rfl
  | cons e t ih =>
    by_cases h : e.redundant l = true
    · rw [pinTrace, if_pos h, ih, (drops_of_redundant h t).2.2]
    · rw [pinTrace, if_neg h, bitsTaken, bitsTaken, ih]

/-- Settles O40: each clause by induction on the trace, a redundant drive and what is kept apart. -/
theorem pinTraceKeepsWhatPinsShow : Obligations.PinTraceKeepsWhatPinsShow := fun l t =>
  ⟨pinTrace_pinTrace l t, Lines.afterAll_pinTrace l t, samplesOf_pinTrace l t, delaysOf_pinTrace l t,
    bitsTaken_pinTrace l t⟩

/-! ## The grouping of a frame (R32) -/

/-- Bits, then groups, have the pin trace of all their bits sent in one pass (R100). -/
theorem pinTrace_bits_txGroups (l : Lines) (bs : List Bool) (gs : List (Word × Nat)) :
    pinTrace l (bs.flatMap bitEvents ++ .sk false :: gs.flatMap fun g => txEvents g.1 g.2) =
      pinTrace l ((bs ++ gs.flatMap fun g => msbFirst g.1 g.2).flatMap bitEvents ++ [.sk false]) := by
  induction gs generalizing bs with
  | nil => simp
  | cons g gs ih =>
    rw [List.flatMap_cons, List.flatMap_cons, txEvents, List.append_assoc, List.singleton_append,
      pinTrace_txBits_join, ih, List.append_assoc]

/-- Groups sent one after the other, at least one, have the pin trace of their bits sent in one pass. -/
theorem pinTrace_txGroups (l : Lines) (g : Word × Nat) (gs : List (Word × Nat)) :
    pinTrace l ((g :: gs).flatMap fun g => txEvents g.1 g.2) =
      pinTrace l (((g :: gs).flatMap fun g => msbFirst g.1 g.2).flatMap bitEvents ++ [.sk false]) := by
  rw [List.flatMap_cons, List.flatMap_cons, ← pinTrace_bits_txGroups, txEvents, List.append_assoc,
    List.singleton_append]

/-- Settles O39: the groups of a frame are its bits in pieces. -/
theorem frameGroupingIsInvisible : Obligations.FrameGroupingIsInvisible := by
  intro f l
  rw [onePassEvents, ← Frame.flatMap_groups]
  cases f <;> exact pinTrace_txGroups l _ _

end Sys2Proof.Machine
end


section
/-! SUPPORT and PROOFS for 10_state.md: the invariant, kept by every row of the sequencer and by every step, and that
there is always a next state. -/

namespace Sys2Proof.Machine

/-- Settles O30: the reset state is idle and has no request. -/
theorem invariantHoldsAtReset : Obligations.InvariantHoldsAtReset where
  busy_iff := by decide
  fits := rfl
  params := by decide
  host := by simp [State.reset]

/-! ## The registers fit the row, row by row (R31) -/

section
variable {s : State}

/-- What a frame row needs of `OPR` and `STAGE`: there is a frame, and its length is in range (R32). -/
theorem frame_of_inFrame (h : s.inFrame = true) : ∃ f, s.frame = some f := by
  unfold State.inFrame at h
  unfold State.frame
  split at h <;> simp_all

theorem Frame.length_range (f : Frame) : 9 ≤ f.length ∧ f.length ≤ 25 := by
  cases f <;> simp [Frame.length]

/-- A frame is being sent: what `State.sending` says. -/
theorem sending_iff : s.sending = true ↔ s.inFrame = true ∧ s.cs = true ∧ 1 ≤ s.txcnt.toNat ∧
    ∃ f, s.frame = some f ∧ s.txsr = f.value ∧ s.txcnt.toNat ≤ f.length := by
  unfold State.sending
  cases s.frame <;> simp [and_assoc]

end

/-- A row that goes on to `x` keeps the invariant's fit if the registers then fit `x`. -/
def FitsAfter (s : State) : Prop := ∃ t, tick s = .next t ∧ t.fitsRow = true

section
variable {s : State}

theorem fitsAfter_f0 (hs : s.step = .f0) (h : s.inFrame = true) : FitsAfter s := by
  obtain ⟨f, hf⟩ := frame_of_inFrame h
  refine ⟨_, tick_f0 hs hf, ?_⟩
  have hlen := Frame.length_range f
  have hsend : ((s.driveCs true).loadFrame f).sending = true :=
    sending_iff.mpr ⟨h, rfl, by simp; omega, f, hf, rfl, by simp; omega⟩
  exact hsend

theorem fitsAfter_t2 (hs : s.step = .t2) (h : s.sending = true) (hsk : s.sk = false) : FitsAfter s := by
  obtain ⟨-, -, hpos, f, -, -, hle⟩ := sending_iff.mp h
  have hlen := Frame.length_range f
  refine ⟨_, (tick_t2 hs).trans (if_neg ?_), ?_⟩
  · rintro (h0 | h25)
    · simp [h0] at hpos
    · omega
  · simp [State.fitsRow, h, hsk]

/-- A counter that is not 0 counts down by one (R25). -/
theorem toNat_sub_one {w : Nat} {c : BitVec w} (h : 1 ≤ c.toNat) : (c - 1).toNat = c.toNat - 1 := by
  have hw : 1 < 2 ^ w := by have := c.isLt; omega
  rw [BitVec.toNat_sub_of_le] <;> simp [BitVec.le_def, Nat.mod_eq_of_lt hw, h]

/-- A counter below another value of its width counts up by one (R26). -/
theorem toNat_add_one_of_lt {w : Nat} {c d : BitVec w} (h : c.toNat < d.toNat) : (c + 1).toNat = c.toNat + 1 := by
  have hd := d.isLt
  simp only [BitVec.toNat_add, BitVec.toNat_ofNat, BitVec.ofNat_eq_ofNat, Nat.add_mod_mod]
  exact Nat.mod_eq_of_lt (by omega)

theorem ne_zero_of_toNat_pos {w : Nat} {c : BitVec w} (h : 1 ≤ c.toNat) : c ≠ 0 := by
  rintro rfl
  simp at h

theorem toNat_pos_of_ne_zero {w : Nat} {c : BitVec w} (h : c ≠ 0) : 0 < c.toNat :=
  Nat.pos_of_ne_zero fun h0 => h (BitVec.eq_of_toNat_eq (by simpa using h0))

theorem fitsAfter_t5 (hs : s.step = .t5) (h : s.sending = true) (hsk : s.sk = true) : FitsAfter s := by
  obtain ⟨hfr, hcs, hpos, f, hf, htxsr, hle⟩ := sending_iff.mp h
  refine ⟨_, (tick_t5 hs).trans (if_neg (ne_zero_of_toNat_pos hpos)), ?_⟩
  by_cases h0 : s.txcnt - 1 = 0
  · rw [if_pos h0]
    simpa [State.fitsRow, hfr, hcs, hsk] using h0
  · have hsend : s.delay.countTx.sending = true :=
      sending_iff.mpr ⟨hfr, hcs, toNat_pos_of_ne_zero h0, f, hf, htxsr, by
        rw [State.countTx_txcnt, State.delay_txcnt, toNat_sub_one hpos]; omega⟩
    rw [if_neg h0]
    exact hsend

theorem fitsAfter_t6 (hs : s.step = .t6) (h : s.inFrame = true) (hcs : s.cs = true) : FitsAfter s := by
  refine ⟨_, tick_t6 hs, ?_⟩
  by_cases hr : s.opr = .read
  · have hstage : s.stage = .enableFrame := by
      cases hst : s.stage <;> simp [State.inFrame, hr, hst] at h ⊢
    simp [State.fitsRow, hr, hstage, hcs]
  · simp [State.fitsRow, hr, h, hcs]

theorem receiving_iff : s.receiving = true ↔ s.opr = .read ∧ s.stage = .enableFrame ∧ s.cs = true ∧ s.di = false ∧
    1 ≤ s.rxcnt.toNat ∧ s.rxcnt.toNat ≤ 16 := by
  simp [State.receiving, and_assoc]

theorem fitsAfter_x5 (hs : s.step = .x5) (h : s.receiving = true) (hsk : s.sk = false) : FitsAfter s := by
  obtain ⟨hopr, hstage, hcs, hdi, hpos, hle⟩ := receiving_iff.mp h
  refine ⟨_, (tick_x5 hs).trans (if_neg (ne_zero_of_toNat_pos hpos)), ?_⟩
  by_cases h0 : s.rxcnt - 1 = 0
  · rw [if_pos h0]
    simp [State.fitsRow, State.inFrame, hopr, hstage, hcs, hsk]
  · have hrecv : (s.sampled.shiftIn s.doLevel).receiving = true :=
      receiving_iff.mpr ⟨hopr, hstage, hcs, hdi, toNat_pos_of_ne_zero h0, by
        rw [State.shiftIn_rxcnt, State.sampled_rxcnt, toNat_sub_one hpos]; omega⟩
    rw [if_neg h0]
    simp [State.fitsRow, hrecv, hsk]

/-- The end of a transaction (R31, row `E1`): the operation completes, or a `write` goes on to its next stage. -/
theorem fitsAfter_e1 (hs : s.step = .e1) (h : s.inFrame = true) : FitsAfter s := by
  refine (tick_e1 hs ▸ ?_ : ∃ t, tick s = .next t ∧ t.fitsRow = true)
  unfold State.inFrame at h
  unfold State.endRow
  split at h
  case h_7 => cases h
  all_goals
    next hopr hstage =>
      simp only [State.driveDi_opr, State.driveDi_stage, hopr, hstage]
      exact ⟨_, rfl, by simp [State.fitsRow, State.inFrame, State.inPoll, hopr]⟩

theorem polling_iff : s.polling = true ↔ s.inPoll = true ∧ s.cs = true ∧ s.di = false := by
  simp [State.polling, and_assoc]

theorem fitsAfter_w2 (hs : s.step = .w2) (h : s.inPoll = true) (hdi : s.di = false) (hsk : s.sk = false) :
    FitsAfter s := by
  refine ⟨_, tick_w2 hs, ?_⟩
  by_cases h0 : s.params.pollCeiling = 0
  · rw [if_pos h0]
    simp [State.fitsRow, State.polling, h, hdi, hsk, h0]
  · rw [if_neg h0]
    simpa [State.fitsRow, State.polling, h, hdi, hsk] using toNat_pos_of_ne_zero h0

/-- A poll goes on while it is below the ceiling (R26, R130). -/
theorem fitsAfter_w5 (hs : s.step = .w5) (h : s.polling = true)
    (hlt : s.pollcnt.toNat < s.params.pollCeiling.toNat) : FitsAfter s := by
  refine ⟨_, tick_w5 hs, ?_⟩
  have hnext := toNat_add_one_of_lt hlt
  by_cases h1 : s.pollcnt + 1 = s.params.pollCeiling
  · rw [if_pos h1]
    simpa [State.fitsRow, h] using h1
  · have hne : (s.pollcnt + 1).toNat ≠ s.params.pollCeiling.toNat := fun he => h1 (BitVec.eq_of_toNat_eq he)
    have hlt' : (s.pollcnt + 1).toNat < s.params.pollCeiling.toNat := by omega
    rw [if_neg h1]
    simpa [State.fitsRow, h] using hlt'

/-- The end of a poll (R31, rows `W7`, `W8`): `WAITRDY` completes, a `write` goes on to its disable frame. -/
theorem fitsAfter_pollEnd {v : Bool} (ht : tick s = (s.driveCs false).pollEndRow v) (h : s.inPoll = true) :
    FitsAfter s := by
  refine (ht ▸ ?_ : ∃ t, tick s = .next t ∧ t.fitsRow = true)
  unfold State.inPoll at h
  unfold State.pollEndRow
  split at h
  case h_3 => cases h
  all_goals
    next hopr hstage =>
      simp only [State.driveCs_opr, hopr]
      exact ⟨_, rfl, by simp [State.fitsRow, State.inFrame, hopr]⟩

/-- Every row of a running operation has a next state, whose registers fit its row. -/
theorem fitsAfter_of_fitsRow (hs : s.step ≠ .idle) (fits : s.fitsRow = true) : FitsAfter s := by
  cases hstep : s.step
  case idle => exact absurd hstep hs
  all_goals simp only [State.fitsRow, hstep, Bool.and_eq_true, Bool.not_eq_true'] at fits
  case i0 => exact ⟨_, tick_i0 hstep, by simp [State.fitsRow, fits]⟩
  case i1 => exact ⟨_, tick_i1 hstep, by simp [State.fitsRow, fits]⟩
  case i2 => exact ⟨_, tick_i2 hstep, rfl⟩
  case f0 => exact fitsAfter_f0 hstep fits
  case t0 => exact ⟨_, tick_t0 hstep, by simp [State.fitsRow, fits]⟩
  case t1 => exact ⟨_, tick_t1 hstep, by simp [State.fitsRow, fits]⟩
  case t2 => exact fitsAfter_t2 hstep fits.1 fits.2
  case t3 => exact ⟨_, tick_t3 hstep, by simp [State.fitsRow, fits]⟩
  case t4 => exact ⟨_, tick_t4 hstep, by simp [State.fitsRow, fits]⟩
  case t5 => exact fitsAfter_t5 hstep fits.1 fits.2
  case t6 =>
    obtain ⟨⟨⟨hfr, hcs⟩, -⟩, -⟩ := fits
    exact fitsAfter_t6 hstep hfr hcs
  case x0 => exact ⟨_, tick_x0 hstep, by simp [State.fitsRow, State.receiving, fits]⟩
  case x1 => exact ⟨_, tick_x1 hstep, by simp [State.fitsRow, fits]⟩
  case x2 => exact ⟨_, tick_x2 hstep, by simp [State.fitsRow, fits]⟩
  case x3 => exact ⟨_, tick_x3 hstep, by simp [State.fitsRow, fits]⟩
  case x4 => exact ⟨_, tick_x4 hstep, by simp [State.fitsRow, fits]⟩
  case x5 => exact fitsAfter_x5 hstep fits.1 fits.2
  case e0 => exact ⟨_, tick_e0 hstep, by simp [State.fitsRow, fits]⟩
  case e1 =>
    obtain ⟨⟨hfr, -⟩, -⟩ := fits
    exact fitsAfter_e1 hstep hfr
  case w0 => exact ⟨_, tick_w0 hstep, by simp [State.fitsRow, fits]⟩
  case w1 => exact ⟨_, tick_w1 hstep, by simp [State.fitsRow, fits]⟩
  case w2 =>
    obtain ⟨⟨hpoll, hdi⟩, hsk⟩ := fits
    exact fitsAfter_w2 hstep hpoll hdi hsk
  case w3 => exact ⟨_, tick_w3 hstep, by simp_all [State.fitsRow]⟩
  case w4 => exact ⟨_, tick_w4 hstep, by cases s.doLevel <;> simp_all [State.fitsRow]⟩
  case w5 => exact fitsAfter_w5 hstep fits.1.1 (of_decide_eq_true fits.2)
  case w6 => exact ⟨_, tick_w6 hstep, by simp [State.fitsRow, fits]⟩
  case w7 => exact fitsAfter_pollEnd (tick_w7 hstep) (polling_iff.mp fits.1).1
  case w8 => exact fitsAfter_pollEnd (tick_w8 hstep) (polling_iff.mp fits.1.1).1

/-- Acceptance gives a state whose registers fit the first row of the operation. -/
theorem acceptRow_fitsRow (s : State) (r : Request) : (s.acceptRow r).fitsRow = true := by
  unfold State.acceptRow
  split <;> rfl

/-- What acceptance leaves alone. -/
theorem acceptRow_keeps (s : State) (r : Request) :
    (s.acceptRow r).params = s.params ∧ (s.acceptRow r).hostQueue = s.hostQueue := by
  unfold State.acceptRow
  split <;> exact ⟨rfl, rfl⟩

/-- `BUSY` after acceptance: 0 exactly if the operation has completed at once (R89 a). -/
theorem acceptRow_busy_iff (s : State) (r : Request) :
    (s.acceptRow r).busy = true ↔ (s.acceptRow r).step ≠ .idle := by
  obtain ⟨u, x, hu, hx, hb, -, -⟩ | ⟨op, hu⟩ := acceptRow_cases s r
  · simp [hu, hx, hb]
  · simp [hu]

end

/-! ## The invariant and progress (R40) -/

section
variable {s t : State}

/-- What a step in `IDLE` can do: nothing is offered, or the host's next request is taken (R31, R33). -/
theorem tick_idle_cases (hs : s.step = .idle) :
    (s.fetch = none ∧ tick s = .next s.quiet) ∨
      ∃ r rest, s.ready ∧ s.hostQueue = r :: rest ∧
        tick s = .next ({ s with hostQueue := rest }.acceptRow r) := by
  cases hf : s.fetch with
  | none => exact .inl ⟨rfl, tick_idle_none hs hf⟩
  | some p =>
    obtain ⟨hready, rest, hq, hs1⟩ := fetch_eq_some hf
    exact .inr ⟨p.1, rest, hready, hq, hs1 ▸ tick_idle_some hs hf⟩

/-- Settles O32: the idle row and acceptance, else what a row keeps and the fit after it. -/
theorem sequencerKeepsInvariant : Obligations.SequencerKeepsInvariant := by
  intro s t hinv h
  by_cases hs : s.step = .idle
  · obtain ⟨-, ht⟩ | ⟨r, rest, -, hq, ht⟩ := tick_idle_cases hs
    · obtain rfl := Host.Outcome.next.inj (ht.symm.trans h)
      exact ⟨hinv.busy_iff, hinv.fits, hinv.params, hinv.host⟩
    · obtain rfl := Host.Outcome.next.inj (ht.symm.trans h)
      obtain ⟨hparams, hqueue⟩ := acceptRow_keeps { s with hostQueue := rest } r
      refine ⟨acceptRow_busy_iff _ r, acceptRow_fitsRow _ r, by rw [hparams]; exact hinv.params, ?_⟩
      rw [hparams, hqueue]
      exact fun r' hr' => hinv.host r' (hq ▸ List.mem_cons_of_mem r hr')
  · obtain ⟨t', ht', hfits⟩ := fitsAfter_of_fitsRow hs hinv.fits
    obtain rfl := Host.Outcome.next.inj (ht'.symm.trans h)
    obtain ⟨u, x, keeps, hx, rfl⟩ | ⟨u, v, keeps, -, rfl⟩ := runningRow_of_tick hs h
    · exact ⟨by simp [keeps.busy, hinv.busy_iff, hs, hx], hfits, by simpa [keeps.params] using hinv.params,
        by simpa [keeps.params, keeps.hostQueue] using hinv.host⟩
    · exact ⟨by simp, hfits, by simpa [keeps.params] using hinv.params,
        by simpa [keeps.params, keeps.hostQueue] using hinv.host⟩

/-- What an instruction leaves alone: the parameters (R39), the host's requests, and, but for `READ`, `RDATA` (R24). -/
structure State.ExecKeeps (i : Instr) (s t : State) : Prop where
  params    : t.params = s.params := by rfl
  hostQueue : t.hostQueue = s.hostQueue := by rfl
  rdata     : (∃ a, i = .read a) ∨ t.rdata = s.rdata := by exact .inr rfl

theorem execKeeps_of_exec {i : Instr} (h : exec i s = .next t) : State.ExecKeeps i s t := by
  cases i with
  | init => rw [exec_init] at h; cases h; exact {}
  | ewen => rw [exec_ewen] at h; cases h; exact {}
  | ewds => rw [exec_ewds] at h; cases h; exact {}
  | read a => rw [exec_read] at h; cases h; exact { rdata := .inl ⟨a, rfl⟩ }
  | write => rw [exec_write] at h; cases h; exact {}
  | waitrdy => rw [exec_waitrdy] at h; cases h; exact {}
  | reserved6 => rw [exec_reserved6] at h; cases h; exact {}
  | reserved7 => rw [exec_reserved7] at h; cases h; exact {}
  | txbits v c =>
    by_cases hc : c ≤ 16
    · rw [exec_txbits v s hc] at h; cases h; exact {}
    · rw [exec_txbits_refused v s (by omega)] at h; cases h
  | txaddr => rw [exec_txaddr, exec_txbits _ s (by decide)] at h; cases h; exact {}
  | txword => rw [exec_txword, exec_txbits _ s (by decide)] at h; cases h; exact {}
  | rxword => rw [exec_rxword] at h; cases h; exact {}
  | erase | eral | wral | mlread | mlwrite | eepTest | checkrdy | eepEnd => cases h

/-- A requestable instruction completes: the block is quiescent again, the response posted (R31 `finish`, R40). -/
theorem exec_completes {i : Instr} (s : State) (hi : i.requestable = true) :
    ∃ t, exec i s = .next t ∧ t.ready ∧ t.rspValid = true := by
  cases i with
  | init => exact ⟨_, exec_init s, ⟨rfl, rfl⟩, rfl⟩
  | ewen => exact ⟨_, exec_ewen s, ⟨rfl, rfl⟩, rfl⟩
  | ewds => exact ⟨_, exec_ewds s, ⟨rfl, rfl⟩, rfl⟩
  | read a => exact ⟨_, exec_read a s, ⟨rfl, rfl⟩, rfl⟩
  | write a w => exact ⟨_, exec_write a w s, ⟨rfl, rfl⟩, rfl⟩
  | waitrdy => exact ⟨_, exec_waitrdy s, ⟨rfl, rfl⟩, rfl⟩
  | reserved6 => exact ⟨_, exec_reserved6 s, ⟨rfl, rfl⟩, rfl⟩
  | reserved7 => exact ⟨_, exec_reserved7 s, ⟨rfl, rfl⟩, rfl⟩
  | txbits | txaddr | txword | rxword | erase | eral | wral | mlread | mlwrite | eepTest | checkrdy
  | eepEnd => cases hi

theorem step_of_running (hs : s.step ≠ .idle) : step s = tick s := by rw [step, if_neg hs]

theorem step_of_ready {r : Request} {rest : List Request} (hready : s.ready) (hq : s.hostQueue = r :: rest) :
    step s = exec (decodeRequest r) { s with hostQueue := rest } := by
  rw [step, if_pos hready.1, fetch_ready hready hq]

theorem step_of_fetch_none (hs : s.step = .idle) (hf : s.fetch = none) : step s = .next s.quiet := by
  rw [step, if_pos hs, hf]

/-- What a step of the machine can do: nothing is offered, an operation is run, or a row of the sequencer (R31). -/
theorem step_cases (s : State) :
    (s.step = .idle ∧ step s = .next s.quiet) ∨
      (∃ r rest t, s.hostQueue = r :: rest ∧ exec (decodeRequest r) { s with hostQueue := rest } = .next t ∧
        t.ready ∧ step s = .next t) ∨
      (s.step ≠ .idle ∧ step s = tick s) := by
  by_cases hs : s.step = .idle
  · obtain ⟨hf, -⟩ | ⟨r, rest, hready, hq, -⟩ := tick_idle_cases hs
    · exact .inl ⟨hs, step_of_fetch_none hs hf⟩
    · obtain ⟨t, ht, htready, -⟩ := exec_completes { s with hostQueue := rest } (decodeRequest_requestable r)
      exact .inr (.inl ⟨r, rest, t, hq, ht, htready, (step_of_ready hready hq).trans ht⟩)
  · exact .inr (.inr ⟨hs, step_of_running hs⟩)

/-- Settles O31: nothing offered, an operation run to its end, or a row of the sequencer. -/
theorem stepKeepsInvariant : Obligations.StepKeepsInvariant := by
  intro s t hinv h
  obtain ⟨-, ht⟩ | ⟨r, rest, t', hq, hexec, ⟨hidle, hbusy⟩, ht⟩ | ⟨-, ht⟩ := step_cases s
  · obtain rfl := Host.Outcome.next.inj (ht.symm.trans h)
    exact ⟨hinv.busy_iff, hinv.fits, hinv.params, hinv.host⟩
  · obtain rfl := Host.Outcome.next.inj (ht.symm.trans h)
    have keeps := execKeeps_of_exec hexec
    refine ⟨by simp [hbusy, hidle], by simp [State.fitsRow, hidle], keeps.params ▸ hinv.params, ?_⟩
    rw [keeps.params, keeps.hostQueue]
    exact fun r' hr' => hinv.host r' (hq ▸ List.mem_cons_of_mem r hr')
  · exact sequencerKeepsInvariant s t hinv (ht ▸ h)

/-- The sequencer never stops while the registers fit its row (R40). -/
theorem tick_isNext (hinv : s.Inv) : ∃ t, tick s = .next t := by
  by_cases hs : s.step = .idle
  · obtain ⟨-, ht⟩ | ⟨r, rest, -, -, ht⟩ := tick_idle_cases hs
    · exact ⟨_, ht⟩
    · exact ⟨_, ht⟩
  · obtain ⟨t, ht, -⟩ := fitsAfter_of_fitsRow hs hinv.fits
    exact ⟨t, ht⟩

/-- Settles O33: every row has a next state, and every request is for an instruction that completes. -/
theorem machineNeverStops : Obligations.MachineNeverStops := by
  intro s hinv
  refine ⟨tick_isNext hinv, ?_⟩
  obtain ⟨-, ht⟩ | ⟨_, _, t, -, -, -, ht⟩ | ⟨-, ht⟩ := step_cases s
  · exact ⟨_, ht⟩
  · exact ⟨t, ht⟩
  · exact ht ▸ tick_isNext hinv

/-- Settles O34: the equations of a step, and that `withFetchWord` puts the decoded request on the port. -/
theorem stepRunsRequestedInstruction : Obligations.StepRunsRequestedInstruction := by
  refine ⟨fun s r rest => step_of_ready, fun s nbits w i h => ?_, fun s hready hq => ?_, fun s => step_of_running⟩
  · unfold decodeTableWord at h
    cases hparse : parseTableWord nbits w with
    | error e => simp [hparse] at h
    | ok r =>
      obtain rfl : decodeRequest r = i := by simpa [hparse] using h
      have hoffer : s.withFetchWord nbits w = s.offer r := by rw [State.withFetchWord, hparse]
      rw [hoffer, step_of_ready (s := s.offer r) (rest := s.hostQueue) ⟨rfl, rfl⟩ rfl]
      rfl
  · exact step_of_fetch_none hready.1 (by simp [State.fetch, hq])

theorem params_of_tick (h : tick s = .next t) : t.params = s.params := by
  by_cases hs : s.step = .idle
  · obtain ⟨-, ht⟩ | ⟨r, rest, -, -, ht⟩ := tick_idle_cases hs
    · obtain rfl := Host.Outcome.next.inj (ht.symm.trans h)
      rfl
    · obtain rfl := Host.Outcome.next.inj (ht.symm.trans h)
      exact (acceptRow_keeps _ r).1
  · obtain ⟨u, x, keeps, -, rfl⟩ | ⟨u, v, keeps, -, rfl⟩ := runningRow_of_tick hs h
    · exact keeps.params
    · exact keeps.params

/-- Settles O48: what an instruction and what a row leaves alone. -/
theorem parametersAreConstants : Obligations.ParametersAreConstants := by
  refine ⟨fun i s t h => (execKeeps_of_exec h).params, fun s t => params_of_tick, fun s t h => ?_⟩
  obtain ⟨-, ht⟩ | ⟨r, rest, t', -, hexec, -, ht⟩ | ⟨-, ht⟩ := step_cases s
  · obtain rfl := Host.Outcome.next.inj (ht.symm.trans h)
    rfl
  · obtain rfl := Host.Outcome.next.inj (ht.symm.trans h)
    exact (execKeeps_of_exec hexec).params
  · exact params_of_tick (ht ▸ h)

/-- A run goes on with the step's next state. -/
theorem run_succ (n : Nat) (h : step s = .next t) : Host.Core.run core (n + 1) s = Host.Core.run core n t := by
  have hcore : core.step s = .next t := h
  simp only [Host.Core.run, hcore]

/-- Settles O49: by induction on the host's requests, each taken by one step. -/
theorem runAnswersEveryRequest : Obligations.RunAnswersEveryRequest := by
  intro s hready
  generalize hq : s.hostQueue = q
  induction q generalizing s with
  | nil => exact ⟨s, rfl, hready, hq, fun h => absurd rfl h⟩
  | cons r rest ih =>
    obtain ⟨t, hexec, htready, hrsp⟩ :=
    exec_completes { s with hostQueue := rest } (decodeRequest_requestable r)
    have htq : t.hostQueue = rest := (execKeeps_of_exec hexec).hostQueue
    obtain ⟨u, hrun, huready, huq, hursp⟩ := ih t htready htq
    refine ⟨u, (run_succ _ ((step_of_ready hready hq).trans hexec)).trans hrun, huready, huq, fun _ => ?_⟩
    cases rest with
    | nil => obtain rfl := Host.Outcome.next.inj hrun; exact hrsp
    | cons => exact hursp (by simp)

end

/-! ## What a row writes: chip-select, `RDATA`, the latches, the response -/

/-- What a step of the sequencer does to `RDATA` (R24) and to chip-select (R35): a `READ` that completes writes the
one, and the other falls in four rows only. -/
structure State.RowWrites (s t : State) : Prop where
  rdata : t.rdata = s.rdata ∨ s.step = .e1 ∧ s.opr = .read ∧ t.step = .idle ∧ t.rspValid = true := by
    exact .inl rfl
  cs    : t.cs = s.cs ∨ t.cs = true ∨ s.step = .i0 ∨ s.step = .e0 ∨ s.step = .w7 ∨ s.step = .w8 := by
    exact .inl rfl

section
variable {s t u : State}

theorem eq_of_goOn {x : SeqStep} (h : u.goOn x = .next t) : t = (u.goto x).quiet :=
  (Host.Outcome.next.inj h).symm

theorem rowWrites_of_acceptRow (s : State) (r : Request) : s.RowWrites (s.acceptRow r) := by
  unfold State.acceptRow
  split <;> exact {}

theorem rowWrites_of_endRow (hs : s.step = .e1) (h : (s.driveDi false).endRow = .next t) : s.RowWrites t := by
  unfold State.endRow at h
  split at h
  case h_1 | h_2 | h_6 => cases h; exact {}
  case h_3 _ _ hopr => cases h; exact { rdata := .inr ⟨hs, hopr, rfl, rfl⟩ }
  case h_4 | h_5 => obtain rfl := eq_of_goOn h; exact {}
  all_goals cases h

theorem rowWrites_of_pollEndRow {v : Bool} (hs : s.step = .w7 ∨ s.step = .w8)
    (h : (s.driveCs false).pollEndRow v = .next t) : s.RowWrites t := by
  unfold State.pollEndRow at h
  split at h
  case h_1 => cases h; exact { cs := .inr (.inr (.inr (.inr hs))) }
  case h_2 => obtain rfl := eq_of_goOn h; exact { cs := .inr (.inr (.inr (.inr hs))) }
  all_goals cases h

theorem rowWrites_of_tick (h : tick s = .next t) : s.RowWrites t := by
  cases hstep : s.step with
  | idle =>
    obtain ⟨-, ht⟩ | ⟨r, rest, -, -, ht⟩ := tick_idle_cases hstep
    · obtain rfl := Host.Outcome.next.inj (ht.symm.trans h)
      exact {}
    · obtain rfl := Host.Outcome.next.inj (ht.symm.trans h)
      obtain ⟨hrdata, hcs⟩ := rowWrites_of_acceptRow { s with hostQueue := rest } r
      exact ⟨hrdata, hcs⟩
  | i2 => rw [tick_i2 hstep] at h; cases h; exact {}
  | e1 => exact rowWrites_of_endRow hstep (tick_e1 hstep ▸ h)
  | w7 => exact rowWrites_of_pollEndRow (.inl hstep) (tick_w7 hstep ▸ h)
  | w8 => exact rowWrites_of_pollEndRow (.inr hstep) (tick_w8 hstep ▸ h)
  | f0 =>
    cases hf : s.frame with
    | none => simp [tick, hstep, hf] at h
    | some f => obtain rfl := eq_of_goOn (tick_f0 hstep hf ▸ h); exact { cs := .inr (.inl rfl) }
  | t2 | t5 | x5 =>
    simp only [tick, hstep] at h
    split at h
    · cases h
    · obtain rfl := eq_of_goOn h; exact {}
  | w2 => obtain rfl := eq_of_goOn (tick_w2 hstep ▸ h); exact { cs := .inr (.inl rfl) }
  | i0 | e0 =>
    simp only [tick, hstep] at h
    obtain rfl := eq_of_goOn h
    exact { cs := by simp [hstep] }
  | i1 | t0 | t1 | t3 | t4 | t6 | x0 | x1 | x2 | x3 | x4 | w0 | w1 | w3 | w4 | w5 | w6 =>
    simp only [tick, hstep] at h
    obtain rfl := eq_of_goOn h
    exact {}

/-- Settles O36: the rows that write chip-select with 0. -/
theorem chipSelectStaysActiveInTransaction : Obligations.ChipSelectStaysActiveInTransaction := by
  intro s t _ h hcs hcs'
  simpa [hcs, hcs'] using (rowWrites_of_tick h).cs

/-- Settles O44: the whole effects of the other instructions, and the row that writes `RDATA`. -/
theorem onlyReadWritesReadData : Obligations.OnlyReadWritesReadData := by
  refine ⟨fun i s t hi h => ?_, fun s t h hne => (rowWrites_of_tick h).rdata.resolve_left hne⟩
  exact (execKeeps_of_exec h).rdata.resolve_left fun ⟨a, ha⟩ => hi a ha

/-- Settles O45: what every row of a running operation leaves alone. -/
theorem latchesHoldUntilNextRequest : Obligations.LatchesHoldUntilNextRequest := by
  intro s t hs h
  obtain ⟨u, x, keeps, -, rfl⟩ | ⟨u, v, keeps, -, rfl⟩ := runningRow_of_tick hs h
  · exact ⟨keeps.opr, keeps.addr, keeps.wdata, keeps.hostQueue⟩
  · exact ⟨keeps.opr, keeps.addr, keeps.wdata, keeps.hostQueue⟩

/-- Settles O47: a row goes on without a response or completes with one, and the whole effects give the response. -/
theorem responseIsPostedAtCompletion : Obligations.ResponseIsPostedAtCompletion := by
  refine ⟨fun s t hs h => ?_, fun i s hi => ?_⟩
  · obtain ⟨u, x, -, hx, rfl⟩ | ⟨u, v, -, -, rfl⟩ := runningRow_of_tick hs h
    · simp [hx]
    · simp
  · cases i with
    | init => exact ⟨_, exec_init s, rfl⟩
    | ewen => exact ⟨_, exec_ewen s, rfl⟩
    | ewds => exact ⟨_, exec_ewds s, rfl⟩
    | read a => exact ⟨_, exec_read a s, rfl⟩
    | write a w => exact ⟨_, exec_write a w s, rfl⟩
    | waitrdy => exact ⟨_, exec_waitrdy s, rfl⟩
    | reserved6 => exact ⟨_, exec_reserved6 s, rfl⟩
    | reserved7 => exact ⟨_, exec_reserved7 s, rfl⟩
    | txbits | txaddr | txword | rxword | erase | eral | wral | mlread | mlwrite | eepTest | checkrdy
    | eepEnd => cases hi

end

end Sys2Proof.Machine
end


section
/-! SUPPORT and PROOFS for 10_state.md, R32 and R200: the sequencer, event by event, does what the operation rules say.
Each block of rows has one lemma that names the state it leads to by the operation rule's own function. -/

namespace Sys2Proof.Machine

/-! ## Runs inside an operation -/

/-- The sequencer gets from `s` to `t` in `n` steps, and is inside an operation before each of them. -/
structure RunsTo (s : State) (n : Nat) (t : State) : Prop where
  run    : runTicks n s = .next t
  inside : ∀ m < n, ∀ v, runTicks m s = .next v → v.step ≠ .idle

/-- Inside an operation, at the row `x`. -/
def State.inRow (s : State) (x : SeqStep) : State := (s.goto x).quiet

@[simp] theorem State.inRow_step (s : State) (x : SeqStep) : (s.inRow x).step = x := rfl

@[simp] theorem State.inRow_inRow (s : State) (x y : SeqStep) : (s.inRow x).inRow y = s.inRow y := rfl

section
variable {s t u : State} {m n : Nat} {x : SeqStep}

theorem RunsTo.refl (s : State) : RunsTo s 0 s := ⟨rfl, fun _ h => absurd h (Nat.not_lt_zero _)⟩

theorem RunsTo.cons (hs : s.step ≠ .idle) (h : tick s = .next u) (hu : RunsTo u n t) : RunsTo s (n + 1) t where
  run := (runTicks_succ n h).trans hu.run
  inside
    | 0, _, _, hv => Host.Outcome.next.inj hv ▸ hs
    | m + 1, hm, _, hv => hu.inside m (Nat.lt_of_succ_lt_succ hm) _ (runTicks_succ m h ▸ hv)

theorem RunsTo.single (hs : s.step ≠ .idle) (h : tick s = .next t) : RunsTo s 1 t := .cons hs h (.refl t)

/-- A row that goes on, then the rest. -/
theorem RunsTo.goOn (h : tick s = u.goOn x) (hu : RunsTo (u.inRow x) n t) (hs : s.step ≠ .idle := by simp [*]) :
    RunsTo s (n + 1) t := .cons hs h hu

theorem RunsTo.trans (hst : RunsTo s m t) (htu : RunsTo t n u) : RunsTo s (m + n) u where
  run := (runTicks_add hst.run).trans htu.run
  inside k hk v hv := by
    by_cases hkm : k < m
    · exact hst.inside k hkm v hv
    · obtain ⟨j, rfl⟩ := Nat.exists_eq_add_of_le (Nat.le_of_not_lt hkm)
      exact htu.inside j (by omega) v (runTicks_add hst.run ▸ hv)

/-- An accepted request, and a run to the end of its operation (R33, R40). -/
theorem RunsTo.completesIn (h : tick s = .next u) (hu : RunsTo u n t) (ht : t.step = .idle) (hv : t.rspValid = true) :
    runTicks (n + 1) s = .next t ∧ s.completesIn (n + 1) := by
  have hrun := (runTicks_succ n h).trans hu.run
  refine ⟨hrun, ⟨t, hrun, ht, hv⟩, fun m hm hlt v hv => ?_⟩
  obtain ⟨k, rfl⟩ := Nat.exists_eq_succ_of_ne_zero hm.ne'
  exact hu.inside k (by omega) v (runTicks_succ k h ▸ hv)

end

/-! ## The rows of a frame (R31, rows `F0` to `T6`) -/

/-- `CS(1)` and a whole frame as the sequencer sends it, in one pass; its events apart, what `sendFrame` does (R32). -/
def sendOnePass (f : Frame) (s : State) : State :=
  { sendFrame f s with trace := s.trace ++ .cs true :: onePassEvents f }

section
variable {s : State}

/-- The six rows of one bit: what `transmit-bits` does for it, and `TXCNT` counts down (R25, R100). -/
theorem runsTo_bit {k : Nat} (hs : s.step = .t0) (hc : s.txcnt.toNat = k + 1) (hk : k < 25) :
    RunsTo s 6 ((s.txBit1 (s.txsr.getLsbD k)).countTx.inRow (if s.txcnt - 1 = 0 then .t6 else .t0)) := by
  have hne : s.txcnt ≠ 0 := by rintro h0; simp [h0] at hc
  have hbit : s.txBit = s.txsr.getLsbD k := by rw [State.txBit, hc, Nat.add_sub_cancel]
  refine .goOn (tick_t0 hs) (.goOn (tick_t1 rfl) (.goOn ((tick_t2 rfl).trans (if_neg ?_)) (.goOn (tick_t3 rfl)
    (.goOn (tick_t4 rfl) (.goOn ((tick_t5 rfl).trans (if_neg hne)) ?_)))))
  · exact not_or.mpr ⟨hne, by simp [State.inRow, hc]; omega⟩
  · rw [← hbit]
    exact .refl _

theorem txBit1_eq (s : State) (b : Bool) :
    s.txBit1 b = { s with sk := true, di := b, trace := s.trace ++ bitEvents b } := by
  simp [State.txBit1, State.driveSk, State.driveDi, State.delay, bitEvents]

/-- All the bits of a frame that are not yet sent (R25, R32). -/
theorem runsTo_bits {n : Nat} (hs : s.step = .t0) (hc : s.txcnt.toNat = n + 1) (hn : n < 25) :
    RunsTo s (6 * (n + 1)) (State.inRow { s with
      sk := true, di := s.txsr.getLsbD 0, txcnt := 0
      trace := s.trace ++ (msbFirst s.txsr (n + 1)).flatMap bitEvents } .t6) := by
  induction n generalizing s with
  | zero =>
    have hbit := runsTo_bit hs hc hn
    have h0 : s.txcnt - 1 = 0 := BitVec.eq_of_toNat_eq (by rw [toNat_sub_one (by omega), hc]; rfl)
    rw [if_pos h0, State.countTx, txBit1_eq, h0] at hbit
    exact hbit
  | succ n ih =>
    have hbit := runsTo_bit hs hc hn
    have hpred : (s.txcnt - 1).toNat = n + 1 := by rw [toNat_sub_one (by omega), hc, Nat.add_sub_cancel]
    rw [if_neg (ne_zero_of_toNat_pos (by omega)), txBit1_eq] at hbit
    have hrest := hbit.trans (ih rfl hpred (by omega))
    convert hrest using 1
    · omega
    · simp [State.inRow, State.goto, State.quiet, State.countTx, msbFirst]

theorem sendOnePass_eq (f : Frame) (s : State) :
    sendOnePass f s = { s with
      cs := true, sk := false, di := f.value.getLsbD 0, txsr := f.value, txcnt := 0
      trace := s.trace ++ .cs true :: onePassEvents f } := by
  have hdi : lastBit f = f.value.getLsbD 0 := by cases f <;> simp [Frame.value, lastBit]
  rw [sendOnePass, sendFrame_eq, hdi]

/-- The rows `F0` to `T6`: `CS(1)` and a whole frame. -/
theorem runsTo_frame {f : Frame} (hs : s.step = .f0) (hf : s.frame = some f) :
    RunsTo s (6 * f.length + 2) ((sendOnePass f s).inRow (if s.opr = .read then .x0 else .e0)) := by
  have hlen := Frame.length_range f
  obtain ⟨n, hn⟩ := Nat.exists_eq_add_of_le' (show 1 ≤ f.length by omega)
  have hbits := runsTo_bits (s := ((s.driveCs true).loadFrame f).inRow .t0) (n := n) rfl
    (by simp [State.inRow]; omega) (by omega)
  have hall := (RunsTo.goOn (tick_f0 hs hf) hbits).trans (.goOn (tick_t6 rfl) (.refl _))
  convert hall using 1
  · omega
  · simp [State.inRow, State.goto, State.quiet, State.driveSk, State.driveCs, State.loadFrame, sendOnePass_eq,
      onePassEvents, Frame.bits, hn]

/-- A transaction's events as the sequencer emits them (R32). -/
def onePassTransactionEvents (f : Frame) : List Event := .cs true :: onePassEvents f ++ [.cs false, .di false]

/-- The state after a transaction that the sequencer has sent. -/
def State.sentOnePass (s : State) (f : Frame) : State :=
  { s with
    cs := false, sk := false, di := false, txsr := f.value, txcnt := 0
    trace := s.trace ++ onePassTransactionEvents f }

theorem closeTransaction_sendOnePass (f : Frame) (s : State) :
    (sendOnePass f s).closeTransaction = s.sentOnePass f := by
  simp [sendOnePass_eq, State.closeTransaction, State.driveCs, State.driveDi, onePassTransactionEvents,
    State.sentOnePass]

/-- The rows of a transaction, to the end of its row `E1`. -/
theorem runsTo_transaction {f : Frame} {t : State} (hs : s.step = .f0) (hf : s.frame = some f) (hr : s.opr ≠ .read)
    (hend : ((s.sentOnePass f).inRow .e1).endRow = .next t) : RunsTo s (6 * f.length + 4) t := by
  have hframe := runsTo_frame hs hf
  rw [if_neg hr] at hframe
  refine hframe.trans (.goOn (tick_e0 rfl) (.single (by simp) ((tick_e1 rfl).trans ?_)))
  rw [← hend, ← closeTransaction_sendOnePass]
  rfl

/-! ## The rows of a received word (R31, rows `X0` to `X5`) -/

theorem rxLoop_inRow (n : Nat) (s : State) (x : SeqStep) : rxLoop n (s.inRow x) = (rxLoop n s).inRow x := by
  induction n generalizing s with
  | zero => rfl
  | succ n ih => exact ih s.rxBit1

/-- The five rows of one received bit: what `receive-word` does for it (R103). -/
theorem runsTo_rxBit (hs : s.step = .x1) (hne : s.rxcnt ≠ 0) :
    RunsTo s 5 (s.rxBit1.inRow (if s.rxcnt - 1 = 0 then .e0 else .x1)) :=
  .goOn (tick_x1 hs) (.goOn (tick_x2 rfl) (.goOn (tick_x3 rfl) (.goOn (tick_x4 rfl)
    (.goOn ((tick_x5 rfl).trans (if_neg hne)) (.refl _)))))

/-- The bits of the word that are still to come (R25, R103). -/
theorem runsTo_rxBits {n : Nat} (hs : s.step = .x1) (hc : s.rxcnt.toNat = n) (hn : n ≠ 0) :
    RunsTo s (5 * n) ((rxLoop n s).inRow .e0) := by
  induction n generalizing s with
  | zero => exact absurd rfl hn
  | succ n ih =>
    have hbit := runsTo_rxBit hs (ne_zero_of_toNat_pos (by omega))
    have hpred : (s.rxcnt - 1).toNat = n := by rw [toNat_sub_one (by omega), hc, Nat.add_sub_cancel]
    by_cases h0 : n = 0
    · subst h0
      rw [if_pos (BitVec.eq_of_toNat_eq hpred)] at hbit
      exact hbit
    · rw [if_neg (ne_zero_of_toNat_pos (by omega))] at hbit
      have hrest := hbit.trans (ih rfl hpred h0)
      rw [rxLoop_inRow, State.inRow_inRow, Nat.add_comm] at hrest
      exact hrest

/-- Sixteen shifts push out whatever the accumulator held before (R25). -/
theorem rxLoop_sixteen_clearAcc (s : State) : rxLoop 16 s.clearAcc = rxLoop 16 s := by
  have hacc : s.rxacc = BitVec.ofNat 16 s.rxacc.toNat := by simp
  have hword (bs : List Bool) (hlen : bs.length = 16) (m : Nat) :
      BitVec.ofNat 16 (bs.foldl (fun a b => 2 * a + b.toNat) m) = BitVec.ofNat 16 (natOfBits bs) :=
    BitVec.eq_of_toNat_eq
      (by rw [natOfBits_foldl, hlen, BitVec.toNat_ofNat, BitVec.toNat_ofNat, Nat.mul_add_mod_self_right])
  rw [rxLoop_eq 16 s.clearAcc 0 rfl, rxLoop_eq 16 s _ hacc, hword _ (s.answers_length 16),
    hword _ (s.clearAcc.answers_length 16)]
  rfl

/-- The rows `X0` to `X5`: what `receive-word` does (R103). -/
theorem runsTo_word (hs : s.step = .x0) : RunsTo s 81 ((receiveWord s).inRow .e0) := by
  have hbits := runsTo_rxBits (s := (s.driveDi false).startReceive.inRow .x1) (n := 16) rfl rfl (by decide)
  have hclear : (s.driveDi false).startReceive.clearAcc = (s.driveDi false).clearAcc.startReceive := rfl
  rw [rxLoop_inRow, ← rxLoop_sixteen_clearAcc, hclear, ← receiveWord, State.inRow_inRow] at hbits
  exact .goOn (tick_x0 hs) hbits

/-! ## The rows of a poll (R31, rows `W0` to `W8`) -/

theorem pollLoop_inRow (n : Nat) (s : State) (x : SeqStep) : pollLoop n (s.inRow x) = (pollLoop n s).inRow x := by
  have hf : (s.inRow x).firstReady = s.firstReady := rfl
  have hp : (s.inRow x).pollSamples = s.pollSamples := rfl
  rw [pollLoop_eq, pollLoop_eq, hf, hp]
  rfl

/-- At `W7` or `W8`: the row's `CS(0)` and `RDY` still to come, the state in which the poll leaves the block. -/
structure PollEnd (u p : State) : Prop where
  row : u.step = .w7 ∧ p.rdy = true ∨ u.step = .w8 ∧ p.rdy = false
  eq  : ((u.driveCs false).setRdy p.rdy).inRow .w8 = p.inRow .w8

section
variable {u p : State}

theorem PollEnd.tick_eq (h : PollEnd u p) : u.step ≠ .idle ∧ tick u = (u.driveCs false).pollEndRow p.rdy := by
  obtain ⟨hs, hv⟩ | ⟨hs, hv⟩ := h.row
  · exact ⟨by simp [hs], hv ▸ tick_w7 hs⟩
  · exact ⟨by simp [hs], hv ▸ tick_w8 hs⟩

theorem PollEnd.opr (h : PollEnd u p) : u.opr = p.opr := by
  have hopr := congrArg (fun v : State => v.opr) h.eq
  exact hopr

/-- A `WAITRDY` completes with its poll (R130). -/
theorem PollEnd.tick_waitrdy (h : PollEnd u p) (hp : p.opr = .waitrdy) : tick u = .next (p.finish p.rdy) := by
  have hend : ((u.driveCs false).pollEndRow p.rdy) = .next (((u.driveCs false).setRdy p.rdy).finish p.rdy) := by
    simp [State.pollEndRow, h.opr, hp]
  rw [h.tick_eq.2, hend]
  have hfin := congrArg (fun v : State => v.finish p.rdy) h.eq
  exact congrArg _ hfin

/-- A `WRITE` goes on to its disable frame, whatever the poll saw (R121). -/
theorem PollEnd.tick_write (h : PollEnd u p) (hp : p.opr = .write) :
    tick u = .next ((p.setStage .disableFrame).inRow .f0) := by
  have hend : ((u.driveCs false).pollEndRow p.rdy) =
      .next ((((u.driveCs false).setRdy p.rdy).setStage .disableFrame).inRow .f0) := by
    simp only [State.pollEndRow, State.driveCs_opr, h.opr, hp]
    rfl
  rw [h.tick_eq.2, hend]
  have hnext := congrArg (fun v : State => (v.setStage .disableFrame).inRow .f0) h.eq
  exact congrArg _ hnext

end

theorem pollSamples_succ_ready {n : Nat} (h : s.doLevel = true) : s.pollSamples (n + 1) = 1 := by
  rw [State.pollSamples, State.firstReady_succ_ready h]

theorem pollSamples_succ_notReady {n : Nat} (h : s.doLevel = false) :
    s.pollSamples (n + 1) = s.notReady.pollSamples n + 1 := by
  have hf : s.notReady.firstReady n = (s.consumed 1).firstReady n := rfl
  rw [State.pollSamples, State.pollSamples, State.firstReady_succ_notReady h, hf]
  cases (s.consumed 1).firstReady n <;> rfl

/-- The iterations of a poll, `n` of them left before the ceiling (R130). -/
theorem runsTo_pollLoop (n : Nat) (hs : s.step = if n = 0 then .w8 else .w3)
    (hc : s.pollcnt.toNat + n = s.params.pollCeiling.toNat) :
    ∃ u, RunsTo s (3 * s.pollSamples n) u ∧ PollEnd u (pollLoop n s) := by
  induction n generalizing s with
  | zero => exact ⟨s, .refl s, .inr ⟨hs, rfl⟩, rfl⟩
  | succ n ih =>
    rw [if_neg (Nat.succ_ne_zero n)] at hs
    cases hb : s.doLevel with
    | true =>
      have hloop : pollLoop (n + 1) s = ((((s.driveSk true).sampled.driveSk false).driveCs false).setRdy true) := by
        rw [pollLoop, State.driveSk_doLevel, hb, if_pos rfl]
      have hw4 : tick ((s.driveSk true).inRow .w4) = ((s.driveSk true).inRow .w4).sampled.goOn .w6 := by
        rw [tick_w4 rfl]; simp [State.inRow, hb]
      rw [pollSamples_succ_ready hb, hloop]
      exact ⟨_, .goOn (tick_w3 hs) (.goOn hw4 (.goOn (tick_w6 rfl) (.refl _))), .inl ⟨rfl, rfl⟩, rfl⟩
    | false =>
      have hloop : pollLoop (n + 1) s = pollLoop n s.notReady := by
        rw [pollLoop, State.driveSk_doLevel, hb]; rfl
      have hw4 : tick ((s.driveSk true).inRow .w4) = ((s.driveSk true).inRow .w4).sampled.goOn .w5 := by
        rw [tick_w4 rfl]; simp [State.inRow, hb]
      have hnext : (s.pollcnt + 1).toNat = s.pollcnt.toNat + 1 :=
        toNat_add_one_of_lt (d := s.params.pollCeiling) (by omega)
      have hceil : s.pollcnt + 1 = s.params.pollCeiling ↔ n = 0 := by
        rw [← BitVec.toNat_inj, hnext]; omega
      have hw5 : tick (((s.driveSk true).inRow .w4).sampled.inRow .w5) =
          ((((s.driveSk true).inRow .w4).sampled.inRow .w5).driveSk false).countPoll.goOn
            (if n = 0 then .w8 else .w3) :=
        (tick_w5 rfl).trans (congrArg _ (if_congr hceil rfl rfl))
      obtain ⟨u, hu, hend⟩ := ih (s := s.notReady.inRow (if n = 0 then .w8 else .w3)) rfl
        (show (s.pollcnt + 1).toNat + n = s.params.pollCeiling.toNat by omega)
      rw [pollLoop_inRow] at hend
      rw [pollSamples_succ_notReady hb, hloop]
      exact ⟨u, .goOn (tick_w3 hs) (.goOn hw4 (.goOn hw5 hu)), hend.row, hend.eq⟩

/-- The rows `W0` to `W6`: a poll, but for its end (R130). -/
theorem runsTo_poll (hs : s.step = .w0) :
    ∃ u, RunsTo s (3 * s.pollSamples s.params.pollCeiling.toNat + 3) u ∧ PollEnd u (waitReady s) := by
  have hceil : s.params.pollCeiling = 0 ↔ s.params.pollCeiling.toNat = 0 := by rw [← BitVec.toNat_inj]; rfl
  have hw2 : tick (((s.driveDi false).inRow .w1).driveSk false |>.inRow .w2) = _ :=
    (tick_w2 rfl).trans (congrArg _ (if_congr hceil rfl rfl))
  obtain ⟨u, hu, hend⟩ := runsTo_pollLoop s.params.pollCeiling.toNat
    (s := ((((s.driveDi false).driveSk false).driveCs true).clearPoll).inRow
      (if s.params.pollCeiling.toNat = 0 then .w8 else .w3)) rfl (Nat.zero_add _)
  rw [pollLoop_inRow] at hend
  exact ⟨u, .goOn (tick_w0 hs) (.goOn (tick_w1 rfl) (.goOn hw2 hu)), hend.row, hend.eq⟩

end

/-! ## The operations (R32) -/

/-- The sequencer's events for a requestable instruction: those of the operation rules, each frame in one pass. -/
def State.seqEvents (s : State) : Instr → List Event
  | .init => [.cs false, .sk false, .di false]
  | .ewen => onePassTransactionEvents .ewen
  | .ewds => onePassTransactionEvents .ewds
  | .read a => .cs true :: onePassEvents (.read (trunc6 a)) ++ rxEvents (s.answers 16) ++ [.cs false, .di false]
  | .write a w => onePassTransactionEvents .ewen ++ onePassTransactionEvents (.write (trunc6 a) w) ++
      s.pollEvents s.params.pollCeiling.toNat ++ onePassTransactionEvents .ewds
  | .waitrdy => s.pollEvents s.params.pollCeiling.toNat
  | _ => []

/-- From acceptance the sequencer runs to what `exec` gives, its own events apart. -/
def SequencerRuns (s u : State) (i : Instr) (n : Nat) : Prop :=
  ∃ t, exec i s = .next t ∧ RunsTo u n { t with trace := s.trace ++ s.seqEvents i }

theorem sequencerRuns_init (s : State) : SequencerRuns s ((s.accept .init).goto .i0) .init 3 := by
  refine ⟨_, exec_init s, .goOn (tick_i0 rfl) (.goOn (tick_i1 rfl) (.single (by simp) ?_))⟩
  rw [tick_i2 rfl]
  simp [State.inRow, State.accept, State.goto, State.quiet, State.driveCs, State.driveSk, State.driveDi, State.finish,
    State.seqEvents]

/-- A reserved code is complete with its acceptance (R89 a). -/
theorem sequencerRuns_reserved6 (s : State) : SequencerRuns s ((s.accept .reserved6).finish false) .reserved6 0 := by
  have hevents : s.trace ++ s.seqEvents .reserved6 = s.trace := List.append_nil _
  refine ⟨_, exec_reserved6 s, ?_⟩
  rw [hevents]
  exact .refl _

theorem sequencerRuns_reserved7 (s : State) : SequencerRuns s ((s.accept .reserved7).finish false) .reserved7 0 := by
  have hevents : s.trace ++ s.seqEvents .reserved7 = s.trace := List.append_nil _
  refine ⟨_, exec_reserved7 s, ?_⟩
  rw [hevents]
  exact .refl _

theorem sequencerRuns_ewen (s : State) : SequencerRuns s ((s.accept .ewen).goto .f0) .ewen 58 := by
  exact ⟨_, exec_ewen s, runsTo_transaction (f := .ewen) rfl rfl (by simp) rfl⟩

theorem sequencerRuns_ewds (s : State) : SequencerRuns s ((s.accept .ewds).goto .f0) .ewds 58 := by
  exact ⟨_, exec_ewds s, runsTo_transaction (f := .ewds) rfl rfl (by simp) rfl⟩

theorem sequencerRuns_read (a : Nat) (s : State) :
    SequencerRuns s (((s.accept .read).latchAddr a).goto .f0) (.read a) 139 := by
  have hframe := runsTo_frame (s := ((s.accept .read).latchAddr a).goto .f0) (f := .read (trunc6 a)) rfl rfl
  refine ⟨_, exec_read a s, hframe.trans ((runsTo_word rfl).trans (.goOn (tick_e0 rfl) (.single (by simp) ?_)))⟩
  have hans : ((sendOnePass (.read (trunc6 a)) (((s.accept .read).latchAddr a).goto .f0)).inRow .x0).answers 16 =
      s.answers 16 := by rw [sendOnePass_eq]; rfl
  have htrace : s.trace ++ .cs true :: onePassEvents (.read (trunc6 a)) ++ rxEvents (s.answers 16) ++ [.cs false] ++
      [.di false] = s.trace ++ s.seqEvents (.read a) := by simp [State.seqEvents]
  have hopr : (((s.accept .read).latchAddr a).goto .f0).opr = .read := rfl
  rw [tick_e1 rfl, ← htrace, if_pos hopr, receiveWord_eq, hans, sendOnePass_eq]
  rfl

theorem sequencerRuns_waitrdy (s : State) :
    SequencerRuns s ((s.accept .waitrdy).goto .w0) .waitrdy (3 * s.pollSamples s.params.pollCeiling.toNat + 4) := by
  obtain ⟨u, hu, hend⟩ := runsTo_poll (s := (s.accept .waitrdy).goto .w0) rfl
  refine ⟨_, exec_waitrdy s, hu.trans (.single hend.tick_eq.1 ((hend.tick_waitrdy ?_).trans ?_))⟩
  · rw [waitReady_eq]; rfl
  · rw [waitReady_eq]; rfl

/-! ## The four stages of a `write` (R27, R121) -/

section
variable {s : State} (ho : s.opr = .write)
include ho

theorem runsTo_enableStage (hs : s.step = .f0) (hst : s.stage = .enableFrame) :
    RunsTo s 58 (((s.sentOnePass .ewen).setStage .writeFrame).inRow .f0) :=
  runsTo_transaction (f := .ewen) hs (by simp [State.frame, ho, hst]) (by simp [ho])
    (by simp [State.endRow, State.inRow, State.sentOnePass, ho, hst]; rfl)

theorem runsTo_writeStage (hs : s.step = .f0) (hst : s.stage = .writeFrame) :
    RunsTo s 154 (((s.sentOnePass (.write s.addr s.wdata)).setStage .poll).inRow .w0) :=
  runsTo_transaction (f := .write s.addr s.wdata) hs (by simp [State.frame, ho, hst]) (by simp [ho])
    (by simp [State.endRow, State.inRow, State.sentOnePass, ho, hst]; rfl)

theorem runsTo_pollStage (hs : s.step = .w0) :
    RunsTo s (3 * s.pollSamples s.params.pollCeiling.toNat + 4)
      (((waitReady s).setStage .disableFrame).inRow .f0) := by
  obtain ⟨u, hu, hend⟩ := runsTo_poll hs
  exact hu.trans (.single hend.tick_eq.1 (hend.tick_write (by rw [waitReady_eq]; exact ho)))

theorem runsTo_disableStage (hs : s.step = .f0) (hst : s.stage = .disableFrame) :
    RunsTo s 58 ((s.sentOnePass .ewds).finish s.rdy) :=
  runsTo_transaction (f := .ewds) hs (by simp [State.frame, ho, hst]) (by simp [ho])
    (by simp [State.endRow, State.inRow, State.sentOnePass, ho, hst]; rfl)

end

theorem sequencerRuns_write (a : Nat) (w : Word) (s : State) :
    SequencerRuns s ((((s.accept .write).latchAddr a).latchWord w).goto .f0) (.write a w)
      (3 * s.pollSamples s.params.pollCeiling.toNat + 274) := by
  have hopr (v : State) : (waitReady v).opr = v.opr := by rw [waitReady_eq]; rfl
  have hframes := (runsTo_enableStage (s := (((s.accept .write).latchAddr a).latchWord w).goto .f0) rfl rfl rfl).trans
    (runsTo_writeStage rfl rfl rfl)
  have hall := (hframes.trans (runsTo_pollStage rfl rfl)).trans
    (runsTo_disableStage (hopr _) rfl (by rfl))
  have htrace : s.trace ++ onePassTransactionEvents .ewen ++ onePassTransactionEvents (.write (trunc6 a) w) ++
      s.pollEvents s.params.pollCeiling.toNat ++ onePassTransactionEvents .ewds =
      s.trace ++ s.seqEvents (.write a w) := by
    simp [State.seqEvents]
  refine ⟨_, exec_write a w s, ?_⟩
  convert hall using 1
  · change _ = 58 + 154 + (3 * s.pollSamples s.params.pollCeiling.toNat + 4) + 58
    omega
  · rw [waitReady_eq, ← htrace]
    rfl

/-- The number of the sequencer's events for each instruction (R200). -/
theorem length_onePassTransactionEvents (f : Frame) : (onePassTransactionEvents f).length = 6 * f.length + 4 := by
  simp [onePassTransactionEvents, onePassEvents, bitEvents, Frame.bits]
  omega

theorem State.length_pollEvents (s : State) (n : Nat) : (s.pollEvents n).length = 3 * s.pollSamples n + 4 :=
  (countsFrom_pollEvents s.lines s n).events

theorem State.length_seqEvents (s : State) (i : Instr) : (s.seqEvents i).length = match i with
    | .init => 3
    | .ewen | .ewds => 58
    | .read _ => 139
    | .write _ _ => 3 * s.pollSamples s.params.pollCeiling.toNat + 274
    | .waitrdy => 3 * s.pollSamples s.params.pollCeiling.toNat + 4
    | _ => 0 := by
  cases i with
  | ewen | ewds => rfl
  | read a =>
    have hrx := (countsFrom_rxEvents (l := .idle) (s.answers 16) rfl).events
    simp [State.seqEvents, hrx, onePassEvents, bitEvents, Frame.bits, Frame.length]
  | write a w =>
    simp [State.seqEvents, length_onePassTransactionEvents, s.length_pollEvents, Frame.length]
    omega
  | waitrdy => exact s.length_pollEvents _
  | _ => rfl

/-- From the acceptance of a request the sequencer runs, one step an event, to the end state of `exec`. -/
theorem sequencerRuns (s : State) (r : Request) :
    SequencerRuns s (s.acceptRow r) (decodeRequest r) (s.seqEvents (decodeRequest r)).length := by
  rw [State.length_seqEvents]
  unfold State.acceptRow decodeRequest
  cases OpCode.ofCode r.op with
  | init => exact sequencerRuns_init s
  | ewen => exact sequencerRuns_ewen s
  | ewds => exact sequencerRuns_ewds s
  | read => exact sequencerRuns_read r.addr s
  | write => exact sequencerRuns_write r.addr r.wdata s
  | waitrdy => exact sequencerRuns_waitrdy s
  | reserved6 => exact sequencerRuns_reserved6 s
  | reserved7 => exact sequencerRuns_reserved7 s

/-! ## The pin trace of an operation (R10, R32) -/

/-- Traces that the pins show alike, each followed by traces that the pins show alike. -/
theorem pinTrace_append_congr {t t' u u' : List Event} (ht : ∀ l, pinTrace l t = pinTrace l t')
    (hu : ∀ l, pinTrace l u = pinTrace l u') (l : Lines) : pinTrace l (t ++ u) = pinTrace l (t' ++ u') := by
  have hl : l.afterAll t = l.afterAll t' := by rw [← Lines.afterAll_pinTrace, ht, Lines.afterAll_pinTrace]
  rw [pinTrace_append, pinTrace_append, ht, hl, hu]

/-- `CS(1)` and a frame, grouped or in one pass. -/
theorem pinTrace_cs_frame (f : Frame) :
    ∀ l, pinTrace l (.cs true :: groupEvents f) = pinTrace l (.cs true :: onePassEvents f) :=
  pinTrace_append_congr (t := [.cs true]) (t' := [.cs true]) (fun _ => rfl) (frameGroupingIsInvisible f)

theorem pinTrace_transactionEvents (f : Frame) :
    ∀ l, pinTrace l (transactionEvents f) = pinTrace l (onePassTransactionEvents f) :=
  pinTrace_append_congr (pinTrace_cs_frame f) fun _ => rfl

/-- The operation rules and the sequencer show the pins the same. -/
theorem pinTrace_opEvents (s : State) (l : Lines) (i : Instr) :
    pinTrace l (s.opEvents i) = pinTrace l (s.seqEvents i) := by
  cases i with
  | ewen | ewds => exact pinTrace_transactionEvents _ l
  | read a =>
    exact pinTrace_append_congr (pinTrace_append_congr (pinTrace_cs_frame _) fun _ => rfl) (fun _ => rfl) l
  | write a w =>
    exact pinTrace_append_congr (pinTrace_append_congr (pinTrace_append_congr (pinTrace_transactionEvents _)
      (pinTrace_transactionEvents _)) fun _ => rfl) (pinTrace_transactionEvents _) l
  | _ => rfl

/-- Settles O38: acceptance, then the run of the operation's rows. -/
theorem sequencerRefinesOperations : Obligations.SequencerRefinesOperations := by
  intro s r rest hready hq
  obtain ⟨t, hexec, hruns⟩ := sequencerRuns { s with hostQueue := rest } r
  obtain ⟨t', hexec', htrace, -, -⟩ := exec_shows { s with hostQueue := rest } (decodeRequest_requestable r)
  obtain ⟨t'', hexec'', ⟨hidle, -⟩, hrsp⟩ :=
    exec_completes { s with hostQueue := rest } (decodeRequest_requestable r)
  obtain rfl := Host.Outcome.next.inj (hexec.symm.trans hexec')
  obtain rfl := Host.Outcome.next.inj (hexec.symm.trans hexec'')
  obtain ⟨hrun, hcompletes⟩ := hruns.completesIn (tick_idle_some hready.1 (fetch_ready hready hq)) hidle hrsp
  exact ⟨_, t, _, _, _, hexec, hrun, hcompletes, rfl, htrace, rfl, pinTrace_opEvents _ s.lines _, rfl⟩

/-- A request completes in one step for its acceptance and one for each of the sequencer's events. -/
theorem completesIn_seqEvents {s : State} {r : Request} {rest : List Request} (hready : s.ready)
    (hq : s.hostQueue = r :: rest) : s.completesIn (1 + (s.seqEvents (decodeRequest r)).length) := by
  obtain ⟨t, hexec, hruns⟩ := sequencerRuns { s with hostQueue := rest } r
  obtain ⟨t', hexec', ⟨hidle, -⟩, hrsp⟩ :=
    exec_completes { s with hostQueue := rest } (decodeRequest_requestable r)
  obtain rfl := Host.Outcome.next.inj (hexec.symm.trans hexec')
  rw [Nat.add_comm, State.length_seqEvents]
  rw [State.length_seqEvents] at hruns
  exact (hruns.completesIn (tick_idle_some hready.1 (fetch_ready hready hq)) hidle hrsp).2

/-- Settles O41: the number of the sequencer's events for each instruction. -/
theorem sequencerEventCounts : Obligations.SequencerEventCounts := by
  intro s r rest hready hq
  have h := completesIn_seqEvents hready hq
  rw [State.length_seqEvents] at h
  cases hi : decodeRequest r with
  | waitrdy =>
    simp only [hi, State.pollSamples] at h ⊢
    cases hf : s.firstReady s.params.pollCeiling.toNat with
    | none => simpa only [hf] using h
    | some k => simpa only [hf, Nat.mul_succ, Nat.add_assoc] using h
  | write a w =>
    simp only [hi, State.pollSamples] at h ⊢
    cases hf : s.firstReady s.params.pollCeiling.toNat with
    | none => simpa only [hf] using h
    | some k => simpa only [hf, Nat.mul_succ, Nat.add_assoc] using h
  | _ => simpa only [hi] using h

end Sys2Proof.Machine
end


section
/-! SUPPORT and PROOFS for 70_reset_and_hazards.md: every operation in flight ends within a bound (R40, R199), and the
clocked realisation (R190, R200). -/

namespace Sys2Proof.Machine

/-! ## How many steps an operation can still take (R199) -/

/-- The steps after a transaction's row `E1`, at most, with the ceiling `c`: the stages of a `write` still to come. -/
def stepsAfterTransaction (c : Nat) : OpCode → Stage → Nat
  | .write, .enableFrame => 154 + (3 * c + 4) + 58
  | .write, .writeFrame => (3 * c + 4) + 58
  | _, _ => 0

/-- The steps after a poll's last row: the disable frame of a `write`. -/
def stepsAfterPoll (op : OpCode) : Nat := if op = .write then 58 else 0

/-- The steps after a frame's row `T6`, at most: the received word of a `read`, the two closing rows, what follows. -/
def stepsAfterFrame (c : Nat) (op : OpCode) (st : Stage) : Nat :=
  (if op = .read then 81 else 0) + 2 + stepsAfterTransaction c op st

/-- The length of the frame to send, where there is one. -/
def State.frameLength (s : State) : Nat := (s.frame.map Frame.length).getD 0

/-- The steps that the running operation still takes, at most. -/
def State.stepsLeft (s : State) : Nat :=
  let c := s.params.pollCeiling.toNat
  match s.step with
  | .idle => 0
  | .i0 => 3
  | .i1 => 2
  | .i2 => 1
  | .f0 => 6 * s.frameLength + 2 + stepsAfterFrame c s.opr s.stage
  | .t0 => 6 * s.txcnt.toNat + 1 + stepsAfterFrame c s.opr s.stage
  | .t1 => 6 * s.txcnt.toNat + stepsAfterFrame c s.opr s.stage
  | .t2 => 6 * s.txcnt.toNat - 1 + stepsAfterFrame c s.opr s.stage
  | .t3 => 6 * s.txcnt.toNat - 2 + stepsAfterFrame c s.opr s.stage
  | .t4 => 6 * s.txcnt.toNat - 3 + stepsAfterFrame c s.opr s.stage
  | .t5 => 6 * s.txcnt.toNat - 4 + stepsAfterFrame c s.opr s.stage
  | .t6 => 1 + stepsAfterFrame c s.opr s.stage
  | .x0 => 83 + stepsAfterTransaction c s.opr s.stage
  | .x1 => 5 * s.rxcnt.toNat + 2 + stepsAfterTransaction c s.opr s.stage
  | .x2 => 5 * s.rxcnt.toNat + 1 + stepsAfterTransaction c s.opr s.stage
  | .x3 => 5 * s.rxcnt.toNat + stepsAfterTransaction c s.opr s.stage
  | .x4 => 5 * s.rxcnt.toNat - 1 + stepsAfterTransaction c s.opr s.stage
  | .x5 => 5 * s.rxcnt.toNat - 2 + stepsAfterTransaction c s.opr s.stage
  | .e0 => 2 + stepsAfterTransaction c s.opr s.stage
  | .e1 => 1 + stepsAfterTransaction c s.opr s.stage
  | .w0 => 3 * c + 4 + stepsAfterPoll s.opr
  | .w1 => 3 * c + 3 + stepsAfterPoll s.opr
  | .w2 => 3 * c + 2 + stepsAfterPoll s.opr
  | .w3 => 3 * (c - s.pollcnt.toNat) + 1 + stepsAfterPoll s.opr
  | .w4 => 3 * (c - s.pollcnt.toNat) + stepsAfterPoll s.opr
  | .w5 => 3 * (c - s.pollcnt.toNat) - 1 + stepsAfterPoll s.opr
  | .w6 => 2 + stepsAfterPoll s.opr
  | .w7 => 1 + stepsAfterPoll s.opr
  | .w8 => 1 + stepsAfterPoll s.opr

section
variable {s t : State}

/-- The row `E1`: a `write` goes on to its next stage, which was counted. -/
theorem stepsLeft_of_endRow (hs : s.step = .e1) (h : (s.driveDi false).endRow = .next t) :
    t.stepsLeft < s.stepsLeft := by
  have hpos : 0 < s.stepsLeft := by simp [State.stepsLeft, hs]
  unfold State.endRow at h
  split at h
  case h_1 | h_2 | h_3 | h_6 => cases h; exact hpos
  case h_4 _ _ hopr hstage =>
    obtain rfl := eq_of_goOn h
    simp only [State.driveDi_opr, State.driveDi_stage] at hopr hstage
    simp [State.stepsLeft, State.frameLength, State.frame, Frame.length, stepsAfterFrame, stepsAfterTransaction, hs,
      hopr,
      hstage]
    omega
  case h_5 _ _ hopr hstage =>
    obtain rfl := eq_of_goOn h
    simp only [State.driveDi_opr, State.driveDi_stage] at hopr hstage
    simp [State.stepsLeft, stepsAfterTransaction, stepsAfterPoll, hs, hopr, hstage]
  all_goals cases h

/-- The rows `W7` and `W8`: a `write` goes on to its disable frame. -/
theorem stepsLeft_of_pollEndRow {v : Bool} (hs : s.step = .w7 ∨ s.step = .w8)
    (h : (s.driveCs false).pollEndRow v = .next t) : t.stepsLeft < s.stepsLeft := by
  have heq : s.stepsLeft = 1 + stepsAfterPoll s.opr := by
    obtain hs | hs := hs <;> rw [State.stepsLeft, hs]
  have hpos : 0 < s.stepsLeft := by omega
  unfold State.pollEndRow at h
  split at h
  case h_1 => cases h; exact hpos
  case h_2 =>
    next hopr =>
    obtain rfl := eq_of_goOn h
    simp only [State.driveCs_opr] at hopr
    rw [heq]
    simp [State.stepsLeft, State.frameLength, State.frame, Frame.length, stepsAfterFrame, stepsAfterTransaction,
      stepsAfterPoll, hopr]
  all_goals cases h

/-- Every row of a running operation brings its end nearer. -/
theorem stepsLeft_of_tick (hs : s.step ≠ .idle) (fits : s.fitsRow = true) (h : tick s = .next t) :
    t.stepsLeft < s.stepsLeft := by
  cases hstep : s.step
  case idle => exact absurd hstep hs
  all_goals simp only [State.fitsRow, hstep, Bool.and_eq_true, Bool.not_eq_true'] at fits
  case i2 => rw [tick_i2 hstep] at h; cases h; simp [State.stepsLeft, hstep]
  case e1 => exact stepsLeft_of_endRow hstep (tick_e1 hstep ▸ h)
  case w7 => exact stepsLeft_of_pollEndRow (.inl hstep) (tick_w7 hstep ▸ h)
  case w8 => exact stepsLeft_of_pollEndRow (.inr hstep) (tick_w8 hstep ▸ h)
  case f0 =>
    obtain ⟨f, hf⟩ := frame_of_inFrame fits
    obtain rfl := eq_of_goOn (tick_f0 hstep hf ▸ h)
    have hlen := Frame.length_range f
    simp [State.stepsLeft, hstep, State.frameLength, hf]
    omega
  case t1 | t3 | t4 =>
    obtain ⟨-, -, hpos, -⟩ := sending_iff.mp fits.1
    simp only [tick, hstep] at h
    obtain rfl := eq_of_goOn h
    simp [State.stepsLeft, hstep]
    omega
  case t2 =>
    obtain ⟨-, -, hpos, -⟩ := sending_iff.mp fits.1
    rw [tick_t2 hstep] at h
    split at h
    · cases h
    · obtain rfl := eq_of_goOn h
      simp [State.stepsLeft, hstep]
      omega
  case t5 =>
    obtain ⟨-, -, hpos, -⟩ := sending_iff.mp fits.1
    have hpred := toNat_sub_one hpos
    rw [tick_t5 hstep, if_neg (ne_zero_of_toNat_pos hpos)] at h
    obtain rfl := eq_of_goOn h
    split <;> simp [State.stepsLeft, hstep] <;> omega
  case t6 =>
    obtain rfl := eq_of_goOn (tick_t6 hstep ▸ h)
    split <;> simp [State.stepsLeft, stepsAfterFrame, *]
  case x3 | x4 =>
    obtain ⟨-, -, -, -, hpos, -⟩ := receiving_iff.mp fits.1
    simp only [tick, hstep] at h
    obtain rfl := eq_of_goOn h
    simp [State.stepsLeft, hstep]
    omega
  case x5 =>
    obtain ⟨-, -, -, -, hpos, -⟩ := receiving_iff.mp fits.1
    have hpred := toNat_sub_one hpos
    rw [tick_x5 hstep, if_neg (ne_zero_of_toNat_pos hpos)] at h
    obtain rfl := eq_of_goOn h
    split <;> simp [State.stepsLeft, hstep] <;> omega
  case w2 =>
    obtain rfl := eq_of_goOn (tick_w2 hstep ▸ h)
    split <;> simp [State.stepsLeft, hstep]
  case w3 =>
    have hlt := of_decide_eq_true fits.2
    obtain rfl := eq_of_goOn (tick_w3 hstep ▸ h)
    simp [State.stepsLeft, hstep]
  case w4 =>
    have hlt := of_decide_eq_true fits.2
    obtain rfl := eq_of_goOn (tick_w4 hstep ▸ h)
    split <;> simp [State.stepsLeft, hstep] <;> omega
  case w5 =>
    have hlt := of_decide_eq_true fits.2
    have hnext := toNat_add_one_of_lt hlt
    obtain rfl := eq_of_goOn (tick_w5 hstep ▸ h)
    split <;> simp [State.stepsLeft, hstep] <;> omega
  case i0 | i1 | t0 | x0 | x1 | x2 | e0 | w0 | w1 | w6 =>
    simp only [tick, hstep] at h
    obtain rfl := eq_of_goOn h
    simp [State.stepsLeft, hstep]

theorem stepsAfterTransaction_le (c : Nat) (op : OpCode) (st : Stage) :
    stepsAfterTransaction c op st ≤ 3 * c + 216 := by
  unfold stepsAfterTransaction
  split <;> omega

theorem stepsAfterPoll_le (op : OpCode) : stepsAfterPoll op ≤ 58 := by
  unfold stepsAfterPoll
  split <;> omega

/-- A frame, what follows its row `T6`, and the two rows around its bits: at most the whole of a `write` (R199). -/
theorem frame_and_stepsAfterFrame_le {f : Frame} (h : s.inFrame = true) (hf : s.frame = some f) :
    6 * f.length + 2 + stepsAfterFrame s.params.pollCeiling.toNat s.opr s.stage ≤
      3 * s.params.pollCeiling.toNat + 274 := by
  unfold State.inFrame at h
  split at h
  case h_7 => cases h
  all_goals
    next hopr hstage =>
    simp only [State.frame, hopr, hstage, Option.some.injEq] at hf
    subst hf
    simp only [stepsAfterFrame, stepsAfterTransaction, Frame.length, hopr, hstage, reduceCtorEq, if_true, if_false]
    omega

/-- The longest operation (R199, R200): a `write` that polls to the ceiling. -/
theorem stepsLeft_le (fits : s.fitsRow = true) : s.stepsLeft ≤ 3 * s.params.pollCeiling.toNat + 274 := by
  have htrans := stepsAfterTransaction_le s.params.pollCeiling.toNat s.opr s.stage
  have hpoll := stepsAfterPoll_le s.opr
  cases hstep : s.step
  all_goals simp only [State.fitsRow, hstep, Bool.and_eq_true, Bool.not_eq_true'] at fits
  case f0 =>
    obtain ⟨f, hf⟩ := frame_of_inFrame fits
    simpa [State.stepsLeft, hstep, State.frameLength, hf] using frame_and_stepsAfterFrame_le fits hf
  case t0 =>
    obtain ⟨hfr, -, -, f, hf, -, hle⟩ := sending_iff.mp fits
    have := frame_and_stepsAfterFrame_le hfr hf
    simp only [State.stepsLeft, hstep]
    omega
  case t1 | t2 | t3 | t4 | t5 =>
    obtain ⟨hfr, -, -, f, hf, -, hle⟩ := sending_iff.mp fits.1
    have := frame_and_stepsAfterFrame_le hfr hf
    simp only [State.stepsLeft, hstep]
    omega
  case t6 =>
    obtain ⟨⟨⟨hfr, -⟩, -⟩, -⟩ := fits
    obtain ⟨f, hf⟩ := frame_of_inFrame hfr
    have := frame_and_stepsAfterFrame_le hfr hf
    simp only [State.stepsLeft, hstep]
    omega
  case x1 | x2 | x3 | x4 | x5 =>
    obtain ⟨hopr, -, -, -, -, hle⟩ := receiving_iff.mp fits.1
    simp only [State.stepsLeft, hstep, hopr, stepsAfterTransaction]
    omega
  case x0 =>
    obtain ⟨⟨⟨hopr, -⟩, -⟩, -⟩ := fits
    simp only [State.stepsLeft, hstep, eq_of_beq hopr, stepsAfterTransaction]
    omega
  case idle | i0 | i1 | i2 | e0 | e1 | w0 | w1 | w2 | w3 | w4 | w5 | w6 | w7 | w8 =>
    simp only [State.stepsLeft, hstep]
    omega

end

/-- With at most `n` steps left, the sequencer is back in `IDLE` within `n` steps. -/
theorem runs_to_idle (n : Nat) {s : State} (hinv : s.Inv) (hn : s.stepsLeft ≤ n) :
    ∃ m u, m ≤ n ∧ runTicks m s = .next u ∧ u.step = .idle := by
  induction n generalizing s with
  | zero =>
    by_contra hrun
    obtain ⟨t, ht⟩ := tick_isNext hinv
    have hs : s.step ≠ .idle := fun hs => hrun ⟨0, s, Nat.le_refl _, rfl, hs⟩
    exact absurd (stepsLeft_of_tick hs hinv.fits ht) (by omega)
  | succ n ih =>
    by_cases hs : s.step = .idle
    · exact ⟨0, s, Nat.zero_le _, rfl, hs⟩
    · obtain ⟨t, ht⟩ := tick_isNext hinv
      have hlt := stepsLeft_of_tick hs hinv.fits ht
      obtain ⟨m, u, hm, hrun, hu⟩ := ih (sequencerKeepsInvariant s t hinv ht) (by omega)
      exact ⟨m + 1, u, by omega, (runTicks_succ m ht).trans hrun, hu⟩

/-- Settles O42: each row brings the end nearer, and the longest operation bounds how far it can be. -/
theorem operationsAlwaysComplete : Obligations.OperationsAlwaysComplete := by
  intro s hinv
  exact runs_to_idle _ hinv (stepsLeft_le hinv.fits)

/-! ## One event a step (R30) -/

/-- The one event of the current row (R31); a step in `IDLE` has none. -/
def State.rowEvents (s : State) : List Event :=
  match s.step with
  | .idle => []
  | .i0 | .e0 | .w7 | .w8 => [.cs false]
  | .f0 | .w2 => [.cs true]
  | .t0 | .t6 | .x3 | .i1 | .w1 | .w5 | .w6 => [.sk false]
  | .t4 | .x1 | .w3 => [.sk true]
  | .i2 | .x0 | .e1 | .w0 => [.di false]
  | .t2 => [.di s.txBit]
  | .t1 | .t3 | .t5 | .x2 | .x4 => [.dly]
  | .x5 | .w4 => [.smp s.doLevel]

section
variable {s t u : State}

theorem trace_of_endRow (h : u.endRow = .next t) : t.trace = u.trace := by
  unfold State.endRow at h
  split at h
  case h_1 | h_2 | h_3 | h_4 | h_5 | h_6 => cases h; rfl
  all_goals cases h

theorem trace_of_pollEndRow {v : Bool} (h : u.pollEndRow v = .next t) : t.trace = u.trace := by
  unfold State.pollEndRow at h
  split at h
  case h_1 | h_2 => cases h; rfl
  all_goals cases h

theorem runTicks_succ_cases {n : Nat} (h : runTicks (n + 1) s = .next t) :
    ∃ u, tick s = .next u ∧ runTicks n u = .next t := by
  cases htick : tick s with
  | next u => exact ⟨u, rfl, (runTicks_succ n htick).symm.trans h⟩
  | fault r | refused r => simp [runTicks, htick] at h

theorem acceptRow_trace (s : State) (r : Request) : (s.acceptRow r).trace = s.trace := by
  unfold State.acceptRow
  split <;> rfl

/-- What a step of the sequencer adds to the trace. -/
theorem trace_of_tick (h : tick s = .next t) : t.trace = s.trace ++ s.rowEvents := by
  unfold State.rowEvents
  cases hstep : s.step with
  | idle =>
    rw [List.append_nil]
    obtain ⟨-, ht⟩ | ⟨r, rest, -, -, ht⟩ := tick_idle_cases hstep
    · obtain rfl := Host.Outcome.next.inj (ht.symm.trans h)
      rfl
    · obtain rfl := Host.Outcome.next.inj (ht.symm.trans h)
      exact acceptRow_trace _ r
  | i2 => rw [tick_i2 hstep] at h; cases h; rfl
  | e1 => exact trace_of_endRow (tick_e1 hstep ▸ h)
  | w7 => exact trace_of_pollEndRow (tick_w7 hstep ▸ h)
  | w8 => exact trace_of_pollEndRow (tick_w8 hstep ▸ h)
  | f0 =>
    cases hf : s.frame with
    | none => simp [tick, hstep, hf] at h
    | some f => obtain rfl := eq_of_goOn (tick_f0 hstep hf ▸ h); rfl
  | t2 | t5 | x5 =>
    simp only [tick, hstep] at h
    split at h
    · cases h
    · obtain rfl := eq_of_goOn h; rfl
  | i0 | i1 | t0 | t1 | t3 | t4 | t6 | x0 | x1 | x2 | x3 | x4 | e0 | w0 | w1 | w2 | w3 | w4 | w5 | w6 =>
    simp only [tick, hstep] at h
    obtain rfl := eq_of_goOn h
    rfl

/-- A row emits a delay exactly if it is a `DLY` row. -/
theorem delaysOf_rowEvents (s : State) : delaysOf s.rowEvents = s.step.isDelay.toNat := by
  unfold State.rowEvents
  cases s.step <;> rfl

/-- A run adds to the trace, and no more delays than it has steps. -/
theorem trace_of_runTicks {n : Nat} (h : runTicks n s = .next t) :
    ∃ U, t.trace = s.trace ++ U ∧ delaysOf U ≤ n := by
  induction n generalizing s with
  | zero => cases h; exact ⟨[], (List.append_nil _).symm, Nat.le_refl _⟩
  | succ n ih =>
    obtain ⟨u, hu, hrest⟩ := runTicks_succ_cases h
    obtain ⟨U, hU, hd⟩ := ih hrest
    refine ⟨s.rowEvents ++ U, by rw [hU, trace_of_tick hu, List.append_assoc], ?_⟩
    have hrow := Bool.toNat_le s.step.isDelay
    rw [delaysOf_append, delaysOf_rowEvents]
    omega

/-! ## `DLYCNT` takes no part in the rows of R31 -/

theorem endRow_setDly (k : Nat) (h : u.endRow = .next t) : (u.setDly k).endRow = .next (t.setDly k) := by
  unfold State.endRow at h ⊢
  rw [State.setDly_opr, State.setDly_stage]
  split at h
  case h_1 | h_2 | h_3 | h_4 | h_5 | h_6 => cases h; rfl
  all_goals cases h

theorem pollEndRow_setDly {v : Bool} (k : Nat) (h : u.pollEndRow v = .next t) :
    (u.setDly k).pollEndRow v = .next (t.setDly k) := by
  unfold State.pollEndRow at h ⊢
  rw [State.setDly_opr]
  split at h
  case h_1 | h_2 => cases h; rfl
  all_goals cases h

theorem acceptRow_setDly (k : Nat) (r : Request) : (s.setDly k).acceptRow r = (s.acceptRow r).setDly k := by
  unfold State.acceptRow
  cases OpCode.ofCode r.op <;> rfl

/-- Nothing is taken from the port where the block is not ready or the host has no request (R33). -/
theorem fetch_eq_none_iff : s.fetch = none ↔ (s.ready → s.hostQueue = []) := by
  unfold State.fetch State.ready State.reqReady
  cases s.hostQueue <;> simp

/-- A step does the same whatever `DLYCNT` holds. -/
theorem tick_setDly (k : Nat) (h : tick s = .next t) : tick (s.setDly k) = .next (t.setDly k) := by
  cases hstep : s.step with
  | idle =>
    obtain ⟨hf, ht⟩ | ⟨r, rest, hready, hq, ht⟩ := tick_idle_cases hstep
    · obtain rfl := Host.Outcome.next.inj (ht.symm.trans h)
      exact tick_idle_none hstep (fetch_eq_none_iff.mpr (fetch_eq_none_iff (s := s).mp hf))
    · obtain rfl := Host.Outcome.next.inj (ht.symm.trans h)
      rw [tick_idle_some (s := s.setDly k) hstep (fetch_ready (s := s.setDly k) hready hq)]
      exact congrArg _ (acceptRow_setDly (s := { s with hostQueue := rest }) k r)
  | e1 => exact (tick_e1 (s := s.setDly k) hstep).trans (endRow_setDly (u := s.driveDi false) k (tick_e1 hstep ▸ h))
  | w7 =>
    exact (tick_w7 (s := s.setDly k) hstep).trans (pollEndRow_setDly (u := s.driveCs false) k (tick_w7 hstep ▸ h))
  | w8 =>
    exact (tick_w8 (s := s.setDly k) hstep).trans (pollEndRow_setDly (u := s.driveCs false) k (tick_w8 hstep ▸ h))
  | f0 =>
    cases hf : s.frame with
    | none => simp [tick, hstep, hf] at h
    | some f =>
      obtain rfl := eq_of_goOn (tick_f0 hstep hf ▸ h)
      exact tick_f0 (s := s.setDly k) hstep hf
  | t2 | t5 | x5 =>
    simp only [tick, State.setDly_step, hstep] at h ⊢
    split at h
    · cases h
    · next hc =>
      obtain rfl := eq_of_goOn h
      exact if_neg hc
  | i0 | i1 | i2 | t0 | t1 | t3 | t4 | t6 | x0 | x1 | x2 | x3 | x4 | e0 | w0 | w1 | w2 | w3 | w4 | w5 | w6 =>
    simp only [tick, State.setDly_step, hstep] at h ⊢
    cases h
    rfl

theorem runTicks_setDly {n : Nat} (k : Nat) (h : runTicks n s = .next t) :
    runTicks n (s.setDly k) = .next (t.setDly k) := by
  induction n generalizing s with
  | zero => cases h; rfl
  | succ n ih =>
    obtain ⟨u, hu, hrest⟩ := runTicks_succ_cases h
    exact (runTicks_succ n (tick_setDly k hu)).trans (ih hrest)

/-- A `DLY` row does the same whether a response was posted just before it or not. -/
theorem tick_quiet_of_isDelay (hd : s.step.isDelay = true) : tick s.quiet = tick s := by
  cases hstep : s.step with
  | t1 | t3 | t5 | x2 | x4 => simp only [tick, State.quiet_step, hstep]; rfl
  | _ => simp [hstep, SeqStep.isDelay] at hd

/-! ## Clock cycles (R190) -/

theorem clkStep_of_tick (hc : s.step.isDelay = false ∨ s.dlycnt < 2) (h : tick s = .next t) :
    clkStep false s = .next t.loadDly := by
  have hcount : (s.step.isDelay && decide (2 ≤ s.dlycnt)) = false := by
    obtain hc | hc := hc <;> simp [hc]
  rw [clkStep, if_neg (by simp), hcount, if_neg (by simp), h]

theorem runClk_succ (n : Nat) (h : clkStep false s = .next t) : runClk (n + 1) s = runClk n t := by
  rw [runClk, h]

theorem runClk_add {m n : Nat} (h : runClk m s = .next t) : runClk (m + n) s = runClk n t := by
  induction m generalizing s with
  | zero => cases h; rw [Nat.zero_add]
  | succ m ih =>
    rw [Nat.succ_add, runClk]
    rw [runClk] at h
    cases hclk : clkStep false s with
    | next u => rw [hclk] at h; exact ih h
    | fault r | refused r => rw [hclk] at h; cases h

/-- A `DLY` row counts `DLYCNT` down to 1 and then takes its step (R28, R190). -/
theorem runClk_of_isDelay (n : Nat) (hd : s.step.isDelay = true) (hc : s.dlycnt = n + 1) (h : tick s = .next t) :
    runClk (n + 1) s = .next t.loadDly := by
  induction n generalizing s t with
  | zero => exact runClk_succ 0 (clkStep_of_tick (.inr (by omega)) h)
  | succ n ih =>
    have hclk : clkStep false s = .next (s.setDly (n + 1)).quiet := by
      rw [clkStep, if_neg (by simp), if_pos (by simp [hd, hc]), hc]
      rfl
    have htick : tick (s.setDly (n + 1)).quiet = .next (t.setDly (n + 1)) := by
      rw [tick_quiet_of_isDelay (s := s.setDly (n + 1)) hd, tick_setDly _ h]
    have hrest := ih (s := (s.setDly (n + 1)).quiet) hd rfl htick
    exact (runClk_succ (n + 1) hclk).trans hrest

/-- The clock cycles of the current row. -/
def State.rowCycles (s : State) : Nat := if s.step.isDelay then s.params.delayCycles else 1

/-- One step of the sequencer, by the clocked realisation (R190). -/
theorem runClk_of_tick (hpos : 1 ≤ s.params.delayCycles)
    (hc : s.dlycnt = if s.step.isDelay then s.params.delayCycles else 0) (h : tick s = .next t) :
    runClk s.rowCycles s = .next t.loadDly := by
  unfold State.rowCycles
  cases hd : s.step.isDelay with
  | false => exact runClk_succ 0 (clkStep_of_tick (.inl hd) h)
  | true =>
    obtain ⟨n, hn⟩ := Nat.exists_eq_add_of_le' hpos
    rw [if_pos rfl, hn]
    exact runClk_of_isDelay n hd (by rw [hc, hd, if_pos rfl, hn]) h

/-- Settles O50: a cycle outside a `DLY` row, the cycles of a `DLY` row, and the reset. -/
theorem clockCyclesOfOneStep : Obligations.ClockCyclesOfOneStep := by
  refine ⟨fun s t hd h => clkStep_of_tick (.inl hd) h, fun s t hd hpos hc h => ?_, fun s => rfl⟩
  have hrun := runClk_of_tick hpos (by rw [hc, hd, if_pos rfl]) h
  rwa [State.rowCycles, hd, if_pos rfl] at hrun

/-- Settles O51: by induction on the steps, each done by the cycles of its row. -/
theorem clockedRealisationRefinesSequencer : Obligations.ClockedRealisationRefinesSequencer := by
  intro n
  induction n with
  | zero =>
    intro s t U _ hc hrun htrace
    cases hrun
    obtain rfl : U = [] := by simpa using htrace
    have hload : s.loadDly = s := by rw [State.loadDly, ← hc]; rfl
    simp [hload, delaysOf, runClk]
  | succ n ih =>
    intro s t U hpos hc hrun htrace
    obtain ⟨u, hu, hrest⟩ := runTicks_succ_cases hrun
    obtain ⟨U', hU', hd'⟩ := trace_of_runTicks hrest
    have hparams : u.params = s.params := params_of_tick hu
    have hU : U = s.rowEvents ++ U' := by
      rw [hU', trace_of_tick hu, List.append_assoc] at htrace
      exact (List.append_cancel_left htrace).symm
    have hnext := ih u.loadDly (t.setDly u.loadDly.dlycnt) U' (by rw [← hparams] at hpos; exact hpos) rfl
      (runTicks_setDly _ hrest) hU'
    have hcycles : n + 1 - delaysOf U + delaysOf U * s.params.delayCycles =
        s.rowCycles + (n - delaysOf U' + delaysOf U' * u.loadDly.params.delayCycles) := by
      have hp : u.loadDly.params = s.params := hparams
      rw [hU, delaysOf_append, delaysOf_rowEvents, hp, State.rowCycles, Nat.add_mul]
      cases s.step.isDelay <;> simp <;> omega
    rw [hcycles, runClk_add (runClk_of_tick hpos hc hu), hnext]
    rfl

end

end Sys2Proof.Machine
end


section
/-! SUPPORT and PROOFS for 45_device_environment.md: ENV-REF against the traces of the operations (R153 to R157). -/

namespace Sys2Proof.Machine

/-! ## What the pins show is all ENV-REF sees (R10, R154) -/

/-- The lines as ENV-REF sees them. -/
def EnvRef.lines (d : EnvRef) : Lines := { cs := d.cs, sk := d.sk, di := d.di }

section
variable {d d' : EnvRef} {e : Event} {l : Lines} {t u : List Event}

theorem EnvRef.seesIdle_iff : d.seesIdle ↔ d.lines = Lines.idle := by
  simp [EnvRef.seesIdle, EnvRef.lines, Lines.idle]

theorem EnvRef.lines_edge (d : EnvRef) : d.edge.lines = d.lines := by
  unfold EnvRef.edge EnvRef.takeBit
  split
  · split
    · dsimp only
      split <;> rfl
    · split <;> rfl
  · split <;> rfl

theorem EnvRef.lines_execute (d : EnvRef) : d.execute.lines = d.lines := by
  unfold EnvRef.execute
  split_ifs <;> rfl

/-- ENV-REF follows the lines. -/
theorem EnvRef.lines_of_meet (h : d.meet e = some d') : d'.lines = d.lines.after e := by
  cases e with
  | di b | dly => cases h; rfl
  | sk b =>
    cases b with
    | false => cases h; rfl
    | true =>
      simp only [EnvRef.meet] at h
      split at h
      · cases h; exact EnvRef.lines_edge _
      · cases h; rfl
  | cs b =>
    cases b with
    | true =>
      simp only [EnvRef.meet] at h
      split at h <;> cases h
      · next hcs => simp [EnvRef.lines, Lines.after, hcs]
      · rfl
    | false =>
      simp only [EnvRef.meet] at h
      split at h
      · split at h <;> cases h
        · exact EnvRef.lines_execute _
        · rfl
      · next hcs =>
        cases h
        simp [EnvRef.lines, Lines.after, hcs]
  | smp b =>
    have hsmp : d.afterSample.lines = d.lines := by
      unfold EnvRef.afterSample
      split
      · split <;> rfl
      · rfl
    simp only [EnvRef.meet] at h
    split at h
    · split at h <;> cases h
      exact hsmp
    · cases h
      exact hsmp

/-- A redundant drive is nothing to ENV-REF. -/
theorem EnvRef.meet_of_redundant (h : e.redundant d.lines = true) : d.meet e = some d := by
  cases e with
  | cs b =>
    obtain rfl : d.cs = b := by simpa [Event.redundant, EnvRef.lines] using h
    cases hcs : d.cs <;> simp [EnvRef.meet, hcs]
  | sk b =>
    obtain rfl : d.sk = b := by simpa [Event.redundant, EnvRef.lines] using h
    obtain ⟨mem, wen, cs, sk, di⟩ := d
    cases sk <;> simp [EnvRef.meet]
  | di b =>
    obtain rfl : d.di = b := by simpa [Event.redundant, EnvRef.lines] using h
    rfl
  | dly | smp => cases h

theorem EnvRef.meetAll_pinTrace (d : EnvRef) (t : List Event) : d.meetAll (pinTrace d.lines t) = d.meetAll t := by
  induction t generalizing d with
  | nil => rfl
  | cons e t ih =>
    by_cases h : e.redundant d.lines = true
    · rw [pinTrace, if_pos h, ih, EnvRef.meetAll, EnvRef.meet_of_redundant h]
    · rw [pinTrace, if_neg h, EnvRef.meetAll, EnvRef.meetAll]
      cases hm : d.meet e with
      | none => rfl
      | some d' =>
        dsimp only
        rw [← EnvRef.lines_of_meet hm, ih]

theorem EnvRef.watch_eq_meetAll (h : d.seesIdle) (t : List Event) : d.watch Lines.idle t = d.meetAll t := by
  rw [EnvRef.watch, ← EnvRef.seesIdle_iff.mp h, EnvRef.meetAll_pinTrace]

/-- Traces that the pins show alike are alike to ENV-REF. -/
theorem EnvRef.meetAll_congr (h : ∀ l, pinTrace l t = pinTrace l u) : d.meetAll t = d.meetAll u := by
  rw [← EnvRef.meetAll_pinTrace, h, EnvRef.meetAll_pinTrace]

theorem EnvRef.meetAll_append (d : EnvRef) (t u : List Event) :
    d.meetAll (t ++ u) = (d.meetAll t).bind fun d' => d'.meetAll u := by
  induction t generalizing d with
  | nil => rfl
  | cons e t ih =>
    rw [List.cons_append, EnvRef.meetAll, EnvRef.meetAll]
    cases d.meet e with
    | none => rfl
    | some d' => exact ih d'

theorem EnvRef.meetAll_append_of_some (h : d.meetAll t = some d') (u : List Event) :
    d.meetAll (t ++ u) = d'.meetAll u := by
  rw [EnvRef.meetAll_append, h, Option.bind_some]

end

/-! ## A transaction that sends a control or a write frame (R154) -/

/-- Selected, no start bit yet. -/
def EnvRef.opened (d : EnvRef) (st : EnvStatus) : EnvRef :=
  { d with cs := true, sk := false, di := false, started := false, rx := [], mode := .cmd, dout := none, status := st }

/-- After the start bit, with the bits `rx` taken since. -/
def EnvRef.collecting (d : EnvRef) (rx : List Bool) (sk di : Bool) : EnvRef :=
  { d with cs := true, sk := sk, di := di, started := true, rx := rx, mode := .cmd, dout := none, status := .none }

/-- Deselected with idle lines, the bits `rx` taken and not yet executed. -/
def EnvRef.framed (d : EnvRef) (rx : List Bool) : EnvRef :=
  { d with
    cs := false, sk := false, di := false, started := true, rx := rx, mode := .cmd, dout := none, status := .none }

section
variable {d d' : EnvRef} {rx bs : List Bool} {b sk di : Bool}

theorem EnvRef.meet_cs_true (h : d.seesIdle) : d.meet (.cs true) = some (d.opened d.status) := by
  obtain ⟨hcs, hsk, hdi⟩ := h
  simp [EnvRef.meet, EnvRef.opened, hcs, hsk, hdi]

/-- The start bit (R154) ends a status shown before; the bit after it is the first collected. -/
theorem EnvRef.meetAll_startBits (d : EnvRef) (st : EnvStatus) :
    (d.opened st).meetAll (bitEvents true ++ bitEvents b) = some (d.collecting [b] true b) := rfl

theorem EnvRef.meetAll_bitEvents :
    (d.collecting rx sk di).meetAll (bitEvents b) = some (d.collecting rx true b).takeBit := rfl

/-- A bit after the start bit joins the others, unless it completes a read frame. -/
theorem EnvRef.takeBit_collecting (h : rx.length + 1 < 8 ∨ rx.head? = some false) :
    (d.collecting rx true b).takeBit = d.collecting (rx ++ [b]) true b := by
  refine if_neg fun ⟨hlen, htake⟩ => ?_
  change (rx ++ [b]).length = 8 at hlen
  change (rx ++ [b]).take 2 = [true, false] at htake
  obtain h | h := h
  · rw [List.length_append, List.length_singleton] at hlen
    omega
  · obtain ⟨rx, rfl⟩ := List.head?_eq_some_iff.mp h
    simp at htake

theorem EnvRef.meetAll_bits (h : rx.length + bs.length < 8 ∨ rx.head? = some false) :
    ∃ sk' di', (d.collecting rx sk di).meetAll (bs.flatMap bitEvents) = some (d.collecting (rx ++ bs) sk' di') := by
  induction bs generalizing rx sk di with
  | nil => exact ⟨sk, di, by rw [List.append_nil]; rfl⟩
  | cons b bs ih =>
    have hfirst : rx.length + 1 < 8 ∨ rx.head? = some false := h.imp_left fun h => by
      rw [List.length_cons] at h
      omega
    have hrest : (rx ++ [b]).length + bs.length < 8 ∨ (rx ++ [b]).head? = some false := by
      refine h.imp (fun h => ?_) fun h => by simp [h]
      simp only [List.length_append, List.length_cons, List.length_nil] at h ⊢
      omega
    obtain ⟨sk', di', hbs⟩ := ih hrest (sk := true) (di := b)
    refine ⟨sk', di', ?_⟩
    rw [List.flatMap_cons, EnvRef.meetAll_append_of_some EnvRef.meetAll_bitEvents, EnvRef.takeBit_collecting hfirst,
      hbs, List.append_assoc, List.singleton_append]

/-- The data line has no part in the execution. -/
theorem EnvRef.execute_di (d : EnvRef) (l : Bool) :
    { d.execute with di := l } = ({ d with di := l } : EnvRef).execute := by
  unfold EnvRef.execute
  dsimp only
  split_ifs <;> rfl

/-- The end of a frame: what was collected is executed (R154). -/
theorem EnvRef.meetAll_close :
    (d.collecting rx sk di).meetAll [.sk false, .cs false, .di false] = some (d.framed rx).execute :=
  congrArg some (EnvRef.execute_di { d.framed rx with di := di } false)

/-- ENV-REF executes a control or write frame sent to it (R154). -/
theorem EnvRef.meetAll_transaction (h : d.seesIdle) {f : Frame} (hf : f.bits = true :: false :: bs) :
    d.meetAll (transactionEvents f) = some (d.framed (false :: bs)).execute := by
  obtain ⟨sk, di, hbs⟩ := EnvRef.meetAll_bits (d := d) (rx := [false]) (bs := bs) (.inr rfl)
  have htrace : onePassTransactionEvents f = .cs true :: ((bitEvents true ++ bitEvents false) ++
      (bs.flatMap bitEvents ++ [.sk false, .cs false, .di false])) := by
    rw [onePassTransactionEvents, onePassEvents, hf]
    simp
  rw [EnvRef.meetAll_congr (pinTrace_transactionEvents f), htrace, EnvRef.meetAll, EnvRef.meet_cs_true h]
  dsimp only
  rw [EnvRef.meetAll_append_of_some (EnvRef.meetAll_startBits _ _), EnvRef.meetAll_append_of_some hbs,
    EnvRef.meetAll_close, List.singleton_append]

theorem EnvRef.meetAll_ewen (h : d.seesIdle) :
    d.meetAll (transactionEvents .ewen) =
      some { d.framed [false, false, true, true, false, false, false, false] with wen := true } :=
  EnvRef.meetAll_transaction h (bs := [false, true, true, false, false, false, false]) rfl

theorem EnvRef.meetAll_ewds (h : d.seesIdle) :
    d.meetAll (transactionEvents .ewds) =
      some { d.framed [false, false, false, false, false, false, false, false] with wen := false } :=
  EnvRef.meetAll_transaction h (bs := [false, false, false, false, false, false, false]) rfl

/-- The bits ENV-REF collects from a write frame (R154). -/
def writeBits (a : Addr) (w : Word) : List Bool := [false, true] ++ (msbFirst (a.setWidth 16) 6 ++ msbFirst w 16)

theorem rxAddr_writeBits (a : Addr) (w : Word) : rxAddr (writeBits a w) = a := by
  simp [rxAddr, writeBits, ofNat_natOfBits_msbFirst]

theorem rxData_writeBits (a : Addr) (w : Word) : rxData (writeBits a w) = w := by
  simp [rxData, writeBits, List.take_of_length_le, ofNat_natOfBits_msbFirst]

/-- A write frame (R154): its word is stored and a busy status started, if ENV-REF is write-enabled. -/
theorem EnvRef.meetAll_write (h : d.seesIdle) (a : Addr) (w : Word) :
    d.meetAll (transactionEvents (.write a w)) =
      some (if d.wen then { (d.framed (writeBits a w)).memWrite a w with status := d.startBusy }
        else d.framed (writeBits a w)) := by
  have hlen : (writeBits a w).length = 24 := by simp [writeBits]
  rw [EnvRef.meetAll_transaction h (Frame.bits_write a w)]
  change some (d.framed (writeBits a w)).execute = _
  have hexec : (d.framed (writeBits a w)).execute = if d.wen then { (d.framed (writeBits a w)).memWrite
      (rxAddr (writeBits a w)) (rxData (writeBits a w)) with status := d.startBusy }
        else d.framed (writeBits a w) := by
    refine (if_neg fun h => ?_).trans ((if_neg fun h => ?_).trans (if_pos ⟨hlen, rfl⟩)) <;>
    · have h8 : (writeBits a w).length = 8 := h.1
      omega
  rw [hexec, rxAddr_writeBits, rxData_writeBits]

end

/-- Settles O52: ENV-REF executes the two control frames. -/
theorem deviceObeysControlFrames : Obligations.DeviceObeysControlFrames := by
  intro d h
  rw [EnvRef.watch_eq_meetAll h, EnvRef.watch_eq_meetAll h, EnvRef.meetAll_ewen h, EnvRef.meetAll_ewds h]
  exact ⟨⟨_, rfl, rfl, rfl, rfl, rfl, rfl⟩, _, rfl, rfl, rfl, rfl, rfl, rfl⟩

/-- Settles O53: a write-protected ENV-REF executes a write frame as nothing. -/
theorem unprotectedWriteIsRejected : Obligations.UnprotectedWriteIsRejected := by
  intro d a w h hwen
  rw [EnvRef.watch_eq_meetAll h, EnvRef.meetAll_write h, if_neg (ne_true_of_eq_false hwen)]
  exact ⟨_, rfl, rfl, hwen, rfl⟩

/-! ## A read transaction (R154, R155) -/

/-- The bits ENV-REF collects from a read frame (R154). -/
def readBits (a : Addr) : List Bool := [true, false] ++ msbFirst (a.setWidth 16) 6

/-- Selected, in the read-out of a read frame, with the bits `q` still to show and the output `o`. -/
def EnvRef.reading (d : EnvRef) (a : Addr) (q : List Bool) (o : Option Bool) : EnvRef :=
  { d with
    cs := true, sk := false, di := false, started := true, rx := readBits a, mode := .rdout, q := q, dout := o
    status := .none }

section
variable {d d' : EnvRef} {rx bs q samples : List Bool} {a : Addr} {b : Bool} {o : Option Bool}

theorem rxAddr_readBits (a : Addr) : rxAddr (readBits a) = a := by
  simp [rxAddr, readBits, List.take_of_length_le, ofNat_natOfBits_msbFirst]

/-- The last address bit of a read frame begins the read-out, with the dummy 0 on `DO` (R154). -/
theorem EnvRef.takeBit_readBits (h : rx ++ [b] = readBits a) :
    (d.collecting rx true b).takeBit =
      { d.reading a (msbFirst (d.memRead a) 16) (some false) with sk := true, di := b } := by
  have hread : (rx ++ [b]).length = 8 ∧ (rx ++ [b]).take 2 = [true, false] := by simp [h, readBits]
  refine (if_pos hread).trans ?_
  change { d.collecting (rx ++ [b]) true b with
    q := msbFirst (d.memRead (rxAddr (rx ++ [b]))) 16, mode := .rdout, dout := some false } = _
  rw [h, rxAddr_readBits]
  rfl

theorem EnvRef.meetAll_readFrame (h : d.seesIdle) (a : Addr) :
    d.meetAll (.cs true :: groupEvents (.read a) ++ [.di false]) =
      some (d.reading a (msbFirst (d.memRead a) 16) (some false)) := by
  obtain ⟨bs, b, hb⟩ : ∃ bs b, msbFirst (a.setWidth 16) 6 = bs ++ [b] :=
    (List.eq_nil_or_concat' _).resolve_left (List.cons_ne_nil _ _)
  have hlen : [true].length + (false :: bs).length < 8 := by
    have := congrArg List.length hb
    simp at this ⊢
    omega
  obtain ⟨sk, di, hbs⟩ := EnvRef.meetAll_bits (d := d) (sk := true) (di := true) (.inl hlen)
  have htrace : (.cs true :: onePassEvents (.read a) ++ [.di false]) = .cs true ::
      ((bitEvents true ++ bitEvents true) ++ ((false :: bs).flatMap bitEvents ++ (bitEvents b ++ [.sk false, .di false]))) := by
    rw [onePassEvents, Frame.bits_read, hb]
    simp
  have hbits : [true] ++ false :: bs ++ [b] = readBits a := by simp [readBits, hb]
  rw [EnvRef.meetAll_congr (pinTrace_append_congr (pinTrace_cs_frame _) fun _ => rfl), htrace, EnvRef.meetAll,
    EnvRef.meet_cs_true h]
  dsimp only
  rw [EnvRef.meetAll_append_of_some (EnvRef.meetAll_startBits _ _), EnvRef.meetAll_append_of_some hbs,
    EnvRef.meetAll_append_of_some EnvRef.meetAll_bitEvents, EnvRef.takeBit_readBits hbits]
  rfl

/-- In the read-out a sample is the next bit of the word (R155). -/
theorem EnvRef.meetAll_rxBitEvents {b' : Bool} :
    (d.reading a (b :: q) o).meetAll (rxBitEvents b') = if b' = b then some (d.reading a q (some b)) else none := by
  cases b <;> cases b' <;> rfl

theorem EnvRef.samples_of_meetAll (hlen : samples.length = q.length)
    (h : (d.reading a q o).meetAll (samples.flatMap rxBitEvents) = some d') :
    samples = q ∧ ∃ o', d' = d.reading a [] o' := by
  induction samples generalizing q o with
  | nil =>
    obtain rfl := List.length_eq_zero_iff.mp hlen.symm
    exact ⟨rfl, o, (Option.some.inj h).symm⟩
  | cons b' samples ih =>
    obtain ⟨b, q, rfl⟩ := List.exists_cons_of_length_eq_add_one hlen.symm
    rw [List.flatMap_cons, EnvRef.meetAll_append, EnvRef.meetAll_rxBitEvents] at h
    split at h
    · next hb =>
      obtain ⟨rfl, ho⟩ := ih (Nat.succ.inj hlen) h
      exact ⟨by rw [hb], ho⟩
    · cases h

/-- Whatever samples ENV-REF accepts of a read transaction are the addressed word. -/
theorem EnvRef.readEvents_of_meetAll (h : d.seesIdle) (hlen : samples.length = 16)
    (hmeet : d.meetAll (readEvents a samples) = some d') :
    wordOfSamples samples = d.memRead a ∧ d'.mem = d.mem ∧ d'.wen = d.wen ∧ d'.seesIdle := by
  have htrace : readEvents a samples = (.cs true :: groupEvents (.read a) ++ [.di false]) ++
      (samples.flatMap rxBitEvents ++ [.cs false, .di false]) := by
    simp [readEvents, rxEvents]
  rw [htrace, EnvRef.meetAll_append_of_some (EnvRef.meetAll_readFrame h a), EnvRef.meetAll_append,
    Option.bind_eq_some_iff] at hmeet
  obtain ⟨e, he, hclose⟩ := hmeet
  obtain ⟨rfl, o, rfl⟩ := EnvRef.samples_of_meetAll (by simpa using hlen) he
  cases hclose
  exact ⟨by simp [wordOfSamples, ofNat_natOfBits_msbFirst], rfl, rfl, rfl, rfl, rfl⟩

end

/-- Settles O54: the samples of the `READ` are the word ENV-REF shows. -/
theorem readReturnsDeviceWord : Obligations.ReadReturnsDeviceWord := by
  intro d d' a s t T hl h ht hT hd
  rw [exec_read] at ht
  cases ht
  obtain rfl := List.append_cancel_left hT
  rw [hl, EnvRef.watch_eq_meetAll h] at hd
  obtain ⟨hword, hrest⟩ := EnvRef.readEvents_of_meetAll h (s.answers_length 16) hd
  exact ⟨rfl, by rw [← trunc6_eq_mod]; exact hword, hrest⟩

/-! ## The poll against a busy ENV-REF (R155, R156) -/

/-- The busy status with `p` not-ready answers to come, `none` for no end of them. -/
def busyStatus : Option Nat → EnvStatus
  | some n => .busy n
  | none => .busyForever

section
variable {d d' : EnvRef} {p : Option Nat} {s : State} {c k : Nat} {a : Addr} {w : Word}

theorem EnvRef.startBusy_eq (d : EnvRef) : d.startBusy = busyStatus d.busyPolls := by
  unfold EnvRef.startBusy
  split <;> next h => rw [h]; rfl

theorem EnvRef.meetAll_pollOpen (h : d.seesIdle) :
    d.meetAll [.di false, .sk false, .cs true] = some (d.opened d.status) := by
  obtain ⟨hcs, hsk, hdi⟩ := h
  simp [EnvRef.meetAll, EnvRef.meet, EnvRef.opened, hcs]

/-- ENV-REF accepts a not-ready iteration only while busy, and counts it (R155). -/
theorem EnvRef.notReady_of_meetAll (h : (d.opened (busyStatus p)).meetAll notReadyEvents = some d') :
    (∀ n ∈ p, 1 ≤ n) ∧ d' = d.opened (busyStatus (p.map (· - 1))) := by
  match p, h with
  | none, h => exact ⟨by simp, (Option.some.inj h).symm⟩
  | some (n + 1), h => exact ⟨by simp, (Option.some.inj h).symm⟩

theorem EnvRef.notReadys_of_meetAll
    (h : (d.opened (busyStatus p)).meetAll (List.replicate k notReadyEvents).flatten = some d') :
    (∀ n ∈ p, k ≤ n) ∧ d' = d.opened (busyStatus (p.map (· - k))) := by
  induction k generalizing p with
  | zero => exact ⟨fun _ _ => Nat.zero_le _, by cases p <;> exact (Option.some.inj h).symm⟩
  | succ k ih =>
    rw [List.replicate_succ, List.flatten_cons, EnvRef.meetAll_append, Option.bind_eq_some_iff] at h
    obtain ⟨e, he, h⟩ := h
    obtain ⟨hone, rfl⟩ := EnvRef.notReady_of_meetAll he
    obtain ⟨hk, rfl⟩ := ih h
    cases p with
    | none => exact ⟨by simp, rfl⟩
    | some n =>
      have h1 : 1 ≤ n := hone n rfl
      have h2 : k ≤ n - 1 := hk (n - 1) rfl
      refine ⟨fun m hm => ?_, ?_⟩
      · obtain rfl := Option.some.inj hm
        omega
      · rw [Option.map_some, Option.map_some, Option.map_some, Nat.sub_sub, Nat.add_comm]

/-- ENV-REF accepts a ready sample only when no not-ready answer is left (R155). -/
theorem EnvRef.ready_of_meetAll
    (h : (d.opened (busyStatus p)).meetAll [.sk true, .smp true, .sk false, .cs false] = some d') :
    p = some 0 ∧ d'.mem = d.mem ∧ d'.wen = d.wen ∧ d'.seesIdle := by
  match p, h with
  | some 0, h =>
    cases h
    exact ⟨rfl, rfl, rfl, rfl, rfl, rfl⟩

/-- A poll that ENV-REF accepts sees ready exactly if its busy answers end before the ceiling. -/
theorem EnvRef.pollEvents_of_meetAll (h : d.seesIdle) (hst : d.status = busyStatus p)
    (hmeet : d.meetAll (s.pollEvents c) = some d') :
    s.firstReady c = p.filter (· < c) ∧ d'.mem = d.mem ∧ d'.wen = d.wen ∧ d'.seesIdle := by
  cases hready : s.firstReady c with
  | some k =>
    have hk : k < c := List.mem_range.mp (List.find?_range_eq_some.mp hready).2.1
    simp only [State.pollEvents, hready, readyEvents] at hmeet
    rw [List.append_assoc, EnvRef.meetAll_append_of_some (EnvRef.meetAll_pollOpen h), hst, EnvRef.meetAll_append,
      Option.bind_eq_some_iff] at hmeet
    obtain ⟨e, he, hmeet⟩ := hmeet
    obtain ⟨hle, rfl⟩ := EnvRef.notReadys_of_meetAll he
    obtain ⟨hzero, hrest⟩ := EnvRef.ready_of_meetAll hmeet
    obtain ⟨n, rfl, hn⟩ := Option.map_eq_some_iff.mp hzero
    have hkn : k ≤ n := hle n rfl
    obtain rfl : n = k := by omega
    exact ⟨(Option.filter_some_pos (p := (· < c)) (decide_eq_true hk)).symm, hrest⟩
  | none =>
    simp only [State.pollEvents, hready, timeoutEvents] at hmeet
    rw [List.append_assoc, EnvRef.meetAll_append_of_some (EnvRef.meetAll_pollOpen h), hst, EnvRef.meetAll_append,
      Option.bind_eq_some_iff] at hmeet
    obtain ⟨e, he, hmeet⟩ := hmeet
    obtain ⟨hle, rfl⟩ := EnvRef.notReadys_of_meetAll he
    cases hmeet
    exact ⟨(Option.filter_eq_none_iff.mpr (by simpa using hle)).symm, rfl, rfl, rfl, rfl, rfl⟩

/-- A `WRITE` that ENV-REF accepts: the word is stored, the poll's result is whether ENV-REF is ready in time, and
the disable frame is obeyed in either case. -/
theorem EnvRef.writeEvents_of_meetAll (h : d.seesIdle)
    (hmeet : d.meetAll (transactionEvents .ewen ++ transactionEvents (.write a w) ++ s.pollEvents c ++
      transactionEvents .ewds) = some d') :
    s.firstReady c = d.busyPolls.filter (· < c) ∧ d'.mem = (d.memWrite a w).mem ∧ d'.wen = false ∧
      d'.seesIdle := by
  rw [List.append_assoc, List.append_assoc, EnvRef.meetAll_append_of_some (EnvRef.meetAll_ewen h),
    EnvRef.meetAll_append_of_some (EnvRef.meetAll_write ⟨rfl, rfl, rfl⟩ a w), if_pos rfl, EnvRef.meetAll_append,
    Option.bind_eq_some_iff] at hmeet
  obtain ⟨e, he, hmeet⟩ := hmeet
  obtain ⟨hready, hmem, -, hidle⟩ := EnvRef.pollEvents_of_meetAll ⟨rfl, rfl, rfl⟩ (EnvRef.startBusy_eq _) he
  rw [EnvRef.meetAll_ewds hidle] at hmeet
  cases hmeet
  exact ⟨hready, hmem, rfl, rfl, rfl, rfl⟩

theorem EnvRef.memRead_memWrite (hmem : d'.mem = (d.memWrite a w).mem) : d'.memRead a = w := by
  simp [EnvRef.memRead, EnvRef.memWrite, hmem]

end

/-- Settles O55: the `WRITE` stores the word and ends in time, and the `READ` shows it. -/
theorem writeThenReadReturnsTheWord : Obligations.WriteThenReadReturnsTheWord := by
  intro d d1 d2 a n w s t1 t2 T1 T2 hl h hbusy hn hwrite hT1 hd1 hread hT2 hd2
  rw [exec_write] at hwrite
  cases hwrite
  obtain rfl := List.append_cancel_left hT1
  rw [hl, EnvRef.watch_eq_meetAll h] at hd1
  obtain ⟨hready, hmem, hwen, hidle⟩ := EnvRef.writeEvents_of_meetAll h hd1
  obtain ⟨hok, hword, hmem2, hwen2, -⟩ := readReturnsDeviceWord d1 d2 a _ t2 T2 rfl hidle hread hT2 hd2
  rw [← trunc6_eq_mod, EnvRef.memRead_memWrite hmem] at hword
  exact ⟨by simp [hready, hbusy, hn], hok, hword, by rw [← trunc6_eq_mod]; exact hmem, hmem2,
    hwen, hwen2.trans hwen⟩

/-- Settles O56: the poll ends at the ceiling, and the disable frame is obeyed all the same. -/
theorem writeTimesOutOnBusyDevice : Obligations.WriteTimesOutOnBusyDevice := by
  intro d d' a w s t T hl h hbusy ht hT hd
  rw [exec_write] at ht
  cases ht
  obtain rfl := List.append_cancel_left hT
  rw [hl, EnvRef.watch_eq_meetAll h] at hd
  obtain ⟨hready, -, hwen, -⟩ := EnvRef.writeEvents_of_meetAll h hd
  refine ⟨?_, hwen⟩
  obtain hforever | ⟨n, hn, hle⟩ := hbusy
  · simp [hready, hforever]
  · simp [hready, hn, hle]

end Sys2Proof.Machine
end
